-- ==== Sys2Proof/Word.lean ====
section
/-! DEFINITION. The word types of the LoRa frame serializer (LFS): bytes, byte strings and the fixed-width words of its port (spec R10, R12). -/

namespace Sys2Proof

/-- A byte (R12). -/
abbrev Byte := BitVec 8

/-- A byte string, first byte first (R12). -/
abbrev Bytes := List Byte

/-- A numeric argument word or an entry component word (R21, R23). -/
abbrev Word64 := BitVec 64

/-- A request word (R56). -/
abbrev ReqWord := BitVec 32

/-- An entry descriptor word (R62). -/
abbrev EntryWord := BitVec 16

/-- `n` bytes of `0x00` (R12). -/
def zeros (n : Nat) : Bytes := List.replicate n 0

end Sys2Proof
end

