-- ==== Sys2Proof/Config.lean ====
section
/-! DEFINITION. What an implementation of the LFS fixes (R6 to R9, R16; 93_implementation_defined.md I1, I6, I7) and the model's free values.
The spec takes these parameters as arguments of a model; here a `Config` is carried by the state, so every statement about states holds for every configuration (log entry 1). -/

namespace Sys2Proof

/-- `PRESSURE_TIE` (R16): how the pressure component rounds an exact tie. -/
inductive PressureTie where
  /-- Ties go away from zero (the default). -/
  | away
  /-- Ties go to the even neighbour. -/
  | even
deriving DecidableEq, Repr

/-- `SCALE_MUL` (R9): the product function of fixed-point scaling, named and not carried as a function. -/
inductive ScaleMul where
  /-- The default: `RNE64(x * s)`. -/
  | rne64
  /-- Another product function, known by its name only; its results are free values (`Config.namedScaleMul`). -/
  | named (id : Nat)
deriving DecidableEq, Repr

/-- The named parameters a model of the LFS takes (INDEX.md, R6 to R9, R16). -/
structure Config where
  /-- `STR_CAP`: bytes per string register (R6). -/
  strCap : Nat
  /-- `LPP_SLOTS`: number of entry registers (R7). -/
  lppSlots : Nat
  /-- `OUT_CAP`: output buffer bytes (R8). -/
  outCap : Nat
  /-- `SCALE_MUL` (R9). -/
  scaleMul : ScaleMul
  /-- `PRESSURE_TIE` (R16). -/
  pressureTie : PressureTie
deriving DecidableEq, Repr

namespace Config

/-- The constraints of R6, R7 and R8 on the sizes. -/
abbrev Ok (c : Config) : Prop :=
  (32 ≤ c.strCap ∧ c.strCap ≤ 65535) ∧ (1 ≤ c.lppSlots ∧ c.lppSlots ≤ 255) ∧
    max (33 + c.strCap) (11 * c.lppSlots) ≤ c.outCap ∧ c.outCap ≤ 65535

/-- The configuration of the spec's derived vectors (INDEX.md; 95_test_vectors.md): `STR_CAP = 255`, `LPP_SLOTS = 16`,
`OUT_CAP = 288`, the default `SCALE_MUL` and `PRESSURE_TIE = away` (log entry 2). -/
def vectors : Config :=
  { strCap := 255, lppSlots := 16, outCap := 288, scaleMul := .rne64, pressureTie := .away }

/-- FREE VALUE: the product `SCALE_MUL(x, s)` of a product function known by its name only, as a binary64 word (R9, I7; log entry 7). -/
opaque namedScaleMul : (id : Nat) → (x : Word64) → (s : Nat) → Word64

/-- FREE VALUE: what `REQ` holds before the first accepted `START` (R24, R33, I3: any value, never observable; log entry 4). -/
opaque unspecifiedReq : ReqWord

/-- FREE VALUE: what `OUT[a]` holds where no frame has been written (R33: unspecified; log entry 5). -/
opaque unspecifiedOut : (a : Nat) → Byte

end Config

end Sys2Proof
end

