-- ==== Sys2Proof/Syntax.lean ====
section
/-! DEFINITION. The instructions of the LFS, one constructor per row of spec/opcode_table.json, and the host's transactions (R56, R62, R63, R66, R68, R75). -/

namespace Sys2Proof

/-- The rows of the opcode table: the 28 command requests and the two LPP requests (format REQ), and the six sensor
kinds of an entry descriptor (format ENTRY) (R75). -/
inductive Instr where
  /-- `CMD.appStart`, KIND 0 (R119). -/
  | appStart
  /-- `CMD.deviceQuery`, KIND 1 (R120). -/
  | deviceQuery
  /-- `CMD.getBattery`, KIND 2 (R121). -/
  | getBattery
  /-- `CMD.getTime`, KIND 3 (R122). -/
  | getTime
  /-- `CMD.setTime`, KIND 4 (R123). -/
  | setTime
  /-- `CMD.setName`, KIND 5 (R124). -/
  | setName
  /-- `CMD.setCoords`, KIND 6 (R125). -/
  | setCoords
  /-- `CMD.setTxPower`, KIND 7 (R126). -/
  | setTxPower
  /-- `CMD.setRadio`, KIND 8 (R127). -/
  | setRadio
  /-- `CMD.sendAdvertisement`, KIND 9 (R128). -/
  | sendAdvertisement
  /-- `CMD.reboot`, KIND 10 (R129). -/
  | reboot
  /-- `CMD.getContacts`, KIND 11 (R130). -/
  | getContacts
  /-- `CMD.getMessage`, KIND 12 (R131). -/
  | getMessage
  /-- `CMD.sendMessage`, KIND 13 (R132). -/
  | sendMessage
  /-- `CMD.sendCommand`, KIND 14 (R133). -/
  | sendCommand
  /-- `CMD.sendChannelMessage`, KIND 15 (R134). -/
  | sendChannelMessage
  /-- `CMD.sendLogin`, KIND 16 (R135). -/
  | sendLogin
  /-- `CMD.sendLogout`, KIND 17 (R136). -/
  | sendLogout
  /-- `CMD.sendStatusRequest`, KIND 18 (R137). -/
  | sendStatusRequest
  /-- `CMD.getChannel`, KIND 19 (R138). -/
  | getChannel
  /-- `CMD.setChannel`, KIND 20 (R139). -/
  | setChannel
  /-- `CMD.getStats`, KIND 21 (R140). -/
  | getStats
  /-- `CMD.getSelfTelemetry`, KIND 22 (R141). -/
  | getSelfTelemetry
  /-- `CMD.exportPrivateKey`, KIND 23 (R142). -/
  | exportPrivateKey
  /-- `CMD.signStart`, KIND 24 (R143). -/
  | signStart
  /-- `CMD.signFinish`, KIND 25 (R144). -/
  | signFinish
  /-- `CMD.pathDiscovery`, KIND 26 (R145). -/
  | pathDiscovery
  /-- `CMD.sendTrace`, KIND 27 (R146). -/
  | sendTrace
  /-- `LPP.ENTRY` of entry register `k` (R155). -/
  | lppEntry (k : Byte)
  /-- `LPP.FRAME` of the entry registers `E0 .. E(n-1)` (R156). -/
  | lppFrame (n : Byte)
  /-- `LPP.TEMP`, SK 0, on channel `ch` (R149). -/
  | temp (ch : Byte)
  /-- `LPP.HUM`, SK 1, on channel `ch` (R150). -/
  | hum (ch : Byte)
  /-- `LPP.ANALOG`, SK 2, on channel `ch` (R151). -/
  | analog (ch : Byte)
  /-- `LPP.GPS`, SK 3, on channel `ch` (R152). -/
  | gps (ch : Byte)
  /-- `LPP.BARO`, SK 4, on channel `ch` (R153). -/
  | baro (ch : Byte)
  /-- `LPP.ACCEL`, SK 5, on channel `ch` (R154). -/
  | accel (ch : Byte)
deriving DecidableEq, Repr

/-- The word an instruction is encoded in: a 32-bit request word (R56) or a 16-bit entry descriptor (R62). -/
inductive InstrWord where
  | req (w : ReqWord)
  | entry (ew : EntryWord)
deriving DecidableEq, Repr

/-- The eight host transactions with their operands (R68). Register indices are 0 to 255, so an operand outside a
register file is representable (and dropped by R76). -/
inductive Transaction where
  /-- `WRITE_NUM i, v` (R77). -/
  | writeNum (i : Byte) (v : Word64)
  /-- `WRITE_STR j, b` (R78). -/
  | writeStr (j : Byte) (b : Bytes)
  /-- `WRITE_ENTRY k, ew, c0, c1, c2` (R79). -/
  | writeEntry (k : Byte) (ew : EntryWord) (c0 c1 c2 : Word64)
  /-- `START w` (R80). -/
  | start (w : ReqWord)
  /-- `READ_STATUS` (R81). -/
  | readStatus
  /-- `READ_OUTLEN` (R82). -/
  | readOutLen
  /-- `READ_OUT a` (R83). -/
  | readOut (a : BitVec 16)
  /-- `CLEAR` (R84). -/
  | clear
deriving DecidableEq, Repr

/-- One event of the total order of R44: a host transaction, the engine's completion step (R85), or reset (R173). -/
inductive Event where
  | host (t : Transaction)
  | engine
  | reset
deriving DecidableEq, Repr

/-- What a read transaction returns to the host (R68). -/
inductive Reply where
  /-- `READ_STATUS` returns 32 bits. -/
  | status (w : BitVec 32)
  /-- `READ_OUTLEN` returns 16 bits. -/
  | outLen (n : BitVec 16)
  /-- `READ_OUT` returns 8 bits. -/
  | out (b : Byte)
deriving DecidableEq, Repr

end Sys2Proof
end

