-- ==== Sys2Proof/WellFormed.lean ====
section
/-! DEFINITION. Which instructions and transactions name registers that exist on an LFS of a given configuration (R60, R68). -/

namespace Sys2Proof

/-- An instruction is well formed on an LFS with configuration `c` when the entry registers it names exist (R60):
an entry index is below `LPP_SLOTS`, a frame count is at most `LPP_SLOTS`. Every other row has no operand, or a channel
byte that is legal at every value (R148). -/
def Instr.wellFormed (c : Config) : Instr → Bool
  | .lppEntry k => decide (k.toNat < c.lppSlots)
  | .lppFrame n => decide (n.toNat ≤ c.lppSlots)
  | .appStart | .deviceQuery | .getBattery | .getTime | .setTime | .setName | .setCoords | .setTxPower | .setRadio
  | .sendAdvertisement | .reboot | .getContacts | .getMessage | .sendMessage | .sendCommand | .sendChannelMessage
  | .sendLogin | .sendLogout | .sendStatusRequest | .getChannel | .setChannel | .getStats | .getSelfTelemetry
  | .exportPrivateKey | .signStart | .signFinish | .pathDiscovery | .sendTrace => true
  | .temp _ | .hum _ | .analog _ | .gps _ | .baro _ | .accel _ => true

/-- A transaction is well formed when its operands name existing registers and a string that fits (R68, R76). -/
def Transaction.wellFormed (c : Config) : Transaction → Bool
  | .writeNum i _ => decide (i.toNat < 4)
  | .writeStr j b => decide (j.toNat < 2) && decide (b.length ≤ c.strCap)
  | .writeEntry k _ _ _ _ => decide (k.toNat < c.lppSlots)
  | .start _ | .readStatus | .readOutLen | .readOut _ | .clear => true

end Sys2Proof
end

