-- ==== Sys2Proof/Decode.lean ====
section
/-! DEFINITION. Decoding of request words and entry descriptors, total on every word and rejecting by name (R56 to R67, R70), and the encoder. -/

namespace Sys2Proof

/-- Why a word is no instruction. Every reason but the last completes a request with `UNKNOWN_KIND` (R61, R70). -/
inductive DecodeReject where
  /-- A reserved bit of `w[7:2]` or `w[31:24]` is set (R58). -/
  | reservedBits
  /-- `UNIT = 3` (R57). -/
  | reservedUnit
  /-- `ARG` is not zero in a CMD request (R58). -/
  | cmdArgNotZero
  /-- `KIND` of a CMD request is 28 to 255 (R64). -/
  | unknownCommandKind
  /-- `KIND` is not zero in an LPP request (R58). -/
  | lppKindNotZero
  /-- `SK` of an entry descriptor is 6 to 255 (R67). -/
  | unsupportedSensorKind
deriving DecidableEq, Repr

/-- `UNIT`, bits 1:0 (R56). -/
def reqUnit (w : ReqWord) : BitVec 2 := w.extractLsb' 0 2
/-- The reserved bits 7:2 (R56). -/
def reqReservedLo (w : ReqWord) : BitVec 6 := w.extractLsb' 2 6
/-- `KIND`, bits 15:8 (R56). -/
def reqKind (w : ReqWord) : Byte := w.extractLsb' 8 8
/-- `ARG`, bits 23:16 (R56). -/
def reqArg (w : ReqWord) : Byte := w.extractLsb' 16 8
/-- The reserved bits 31:24 (R56). -/
def reqReservedHi (w : ReqWord) : Byte := w.extractLsb' 24 8
/-- `CH`, bits 7:0 of an entry descriptor (R62). -/
def entryCh (ew : EntryWord) : Byte := ew.extractLsb' 0 8
/-- `SK`, bits 15:8 of an entry descriptor (R62). -/
def entrySk (ew : EntryWord) : Byte := ew.extractLsb' 8 8

/-- The command kind identifiers 0 to 27; 28 and above select no row (R63, R64). -/
def commandOfKind (kind : Nat) : Option Instr :=
  match kind with
  | 0 => some .appStart
  | 1 => some .deviceQuery
  | 2 => some .getBattery
  | 3 => some .getTime
  | 4 => some .setTime
  | 5 => some .setName
  | 6 => some .setCoords
  | 7 => some .setTxPower
  | 8 => some .setRadio
  | 9 => some .sendAdvertisement
  | 10 => some .reboot
  | 11 => some .getContacts
  | 12 => some .getMessage
  | 13 => some .sendMessage
  | 14 => some .sendCommand
  | 15 => some .sendChannelMessage
  | 16 => some .sendLogin
  | 17 => some .sendLogout
  | 18 => some .sendStatusRequest
  | 19 => some .getChannel
  | 20 => some .setChannel
  | 21 => some .getStats
  | 22 => some .getSelfTelemetry
  | 23 => some .exportPrivateKey
  | 24 => some .signStart
  | 25 => some .signFinish
  | 26 => some .pathDiscovery
  | 27 => some .sendTrace
  | _ => none

/-- The sensor kind identifiers 0 to 5, on channel `ch`; 6 and above select no row (R66, R67). -/
def sensorOfKind (sk : Nat) (ch : Byte) : Option Instr :=
  match sk with
  | 0 => some (.temp ch)
  | 1 => some (.hum ch)
  | 2 => some (.analog ch)
  | 3 => some (.gps ch)
  | 4 => some (.baro ch)
  | 5 => some (.accel ch)
  | _ => none

/-- `decodeReq`: the checks of R61 in the order written. The two `INVALID_ARGUMENT` checks of R61, which compare `ARG`
with `LPP_SLOTS`, come after all of these and are made by the meanings of `LPP.ENTRY` and `LPP.FRAME` (log entry 17). -/
def decodeReq (w : ReqWord) : Except DecodeReject Instr :=
  if reqReservedLo w ≠ 0 ∨ reqReservedHi w ≠ 0 then .error .reservedBits
  else match (reqUnit w).toNat with
    | 0 =>
      if reqArg w ≠ 0 then .error .cmdArgNotZero
      else match commandOfKind (reqKind w).toNat with
        | some i => .ok i
        | none => .error .unknownCommandKind
    | 1 => if reqKind w ≠ 0 then .error .lppKindNotZero else .ok (.lppEntry (reqArg w))
    | 2 => if reqKind w ≠ 0 then .error .lppKindNotZero else .ok (.lppFrame (reqArg w))
    | _ => .error .reservedUnit

/-- The decoding of an entry descriptor: its `SK` selects the sensor row (R62, R66, R75). -/
def decodeEntry (ew : EntryWord) : Except DecodeReject Instr :=
  match sensorOfKind (entrySk ew).toNat (entryCh ew) with
  | some i => .ok i
  | none => .error .unsupportedSensorKind

/-- The decoder of both formats of the opcode table (R75). -/
def decode : InstrWord → Except DecodeReject Instr
  | .req w => decodeReq w
  | .entry ew => decodeEntry ew

/-- A request word with reserved bits zero (R56). -/
def reqWord (unit : BitVec 2) (kind arg : Byte) : ReqWord :=
  BitVec.ofNat 32 (unit.toNat + 2 ^ 8 * kind.toNat + 2 ^ 16 * arg.toNat)

/-- An entry descriptor word (R62). -/
def entryWord (sk ch : Byte) : EntryWord := BitVec.ofNat 16 (ch.toNat + 2 ^ 8 * sk.toNat)

/-- The word of an instruction (R56, R62, R63, R66). -/
def encode : Instr → InstrWord
  | .appStart => .req (reqWord 0 0 0)
  | .deviceQuery => .req (reqWord 0 1 0)
  | .getBattery => .req (reqWord 0 2 0)
  | .getTime => .req (reqWord 0 3 0)
  | .setTime => .req (reqWord 0 4 0)
  | .setName => .req (reqWord 0 5 0)
  | .setCoords => .req (reqWord 0 6 0)
  | .setTxPower => .req (reqWord 0 7 0)
  | .setRadio => .req (reqWord 0 8 0)
  | .sendAdvertisement => .req (reqWord 0 9 0)
  | .reboot => .req (reqWord 0 10 0)
  | .getContacts => .req (reqWord 0 11 0)
  | .getMessage => .req (reqWord 0 12 0)
  | .sendMessage => .req (reqWord 0 13 0)
  | .sendCommand => .req (reqWord 0 14 0)
  | .sendChannelMessage => .req (reqWord 0 15 0)
  | .sendLogin => .req (reqWord 0 16 0)
  | .sendLogout => .req (reqWord 0 17 0)
  | .sendStatusRequest => .req (reqWord 0 18 0)
  | .getChannel => .req (reqWord 0 19 0)
  | .setChannel => .req (reqWord 0 20 0)
  | .getStats => .req (reqWord 0 21 0)
  | .getSelfTelemetry => .req (reqWord 0 22 0)
  | .exportPrivateKey => .req (reqWord 0 23 0)
  | .signStart => .req (reqWord 0 24 0)
  | .signFinish => .req (reqWord 0 25 0)
  | .pathDiscovery => .req (reqWord 0 26 0)
  | .sendTrace => .req (reqWord 0 27 0)
  | .lppEntry k => .req (reqWord 1 0 k)
  | .lppFrame n => .req (reqWord 2 0 n)
  | .temp ch => .entry (entryWord 0 ch)
  | .hum ch => .entry (entryWord 1 ch)
  | .analog ch => .entry (entryWord 2 ch)
  | .gps ch => .entry (entryWord 3 ch)
  | .baro ch => .entry (entryWord 4 ch)
  | .accel ch => .entry (entryWord 5 ch)

/-- The format a table row of `nbits` bits has: 16 bits are an entry descriptor, 32 a request word (R75; log entry 14). -/
def tableWord (nbits w : Nat) : Option InstrWord :=
  match nbits with
  | 16 => some (.entry (BitVec.ofNat 16 w))
  | 32 => some (.req (BitVec.ofNat 32 w))
  | _ => none

/-- The instruction the decoder reads from a table row's word (log entry 14). -/
def decodeTableWord (nbits w : Nat) : Option Instr :=
  match tableWord nbits w with
  | some iw => (decode iw).toOption
  | none => none

end Sys2Proof
end

