-- ==== Sys2Proof/Machine/State.lean ====
section
/-! DEFINITION. The state of the LFS (R20 to R34), its reset value (R33), and the reasons a step can stop (R164). -/

namespace Sys2Proof.Machine

/-- Why the machine stops. -/
inductive Fault where
  /-- `UnwrittenArgument` (R27, R85, R106, R164; I2, D27): the operation's row reads an argument register that no accepted
  write has set since reset, and "the model stops with `fault UnwrittenArgument`". Raised by the completion of the
  instructions that read a register. Safe: the hardware completes with an unspecified result. -/
  | unwrittenArgument
  /-- A frame longer than `OUT_CAP` would be written to addresses of `OUT` that do not exist (R35). Raised by a
  successful completion, only in states no run reaches: R8 makes every frame fit. Safe. -/
  | frameBeyondOut
deriving DecidableEq, Repr

/-- Why an instruction has no meaning. -/
inductive Refusal where
  /-- The instruction of this mnemonic has no meaning in the model yet. Raised by `exec`'s arms only. Safe. -/
  | notModelled (mnemonic : String)
deriving DecidableEq, Repr

/-- The numeric argument registers `N0..N3`, 64 bits each; `none` is a register no accepted write has set since
reset, its written bit clear (R21, R27, R34). -/
structure NumFile where
  n0 : Option Word64
  n1 : Option Word64
  n2 : Option Word64
  n3 : Option Word64
deriving DecidableEq, Repr

/-- The string argument registers `S0, S1`; the length of the list is `SLEN[j]`; `none` is unwritten (R22, R27, R34). -/
structure StrFile where
  s0 : Option Bytes
  s1 : Option Bytes
deriving DecidableEq, Repr

/-- The contents of an entry register (R23, R34). -/
structure Entry where
  /-- `CH`, the LPP channel. -/
  ch : Byte
  /-- `SK`, the sensor kind identifier. -/
  sk : Byte
  /-- `C0`. -/
  c0 : Word64
  /-- `C1`. -/
  c1 : Word64
  /-- `C2`. -/
  c2 : Word64
deriving DecidableEq, Repr

/-- The entry registers that have been written: (index, contents), indices strictly rising; an index that is not
listed is an unwritten register (R23, R27, R34). -/
abbrev EntryFile := List (Nat × Entry)

/-- The fields of `STATUS` (R25); bits 31:16 of the word are always 0 and hold no state (I12). -/
structure Status where
  busy : Bool
  done : Bool
  err : Bool
  drop : Bool
  ecode : BitVec 4
  eidx : Byte
deriving DecidableEq, Repr

/-- The output buffer `OUT`: the bytes that have been written, addresses strictly rising; an address that is not
listed holds no known value (R28, R33, R35). -/
abbrev Memory := List Host.Cell

/-- The state of the LFS (R34), the configuration it was built with (log entry 1), and the model's own record of the
events to come and of the replies given (log entries 8 and 10). -/
structure State where
  /-- The implementation's parameters; no step changes them (log entry 1). -/
  cfg : Config
  /-- `N0..N3` (R21). -/
  num : NumFile
  /-- `S0, S1` (R22). -/
  str : StrFile
  /-- `E[k]` (R23). -/
  ent : EntryFile
  /-- `REQ` (R24); `none` until the first accepted `START` after reset. -/
  req : Option ReqWord
  /-- `STATUS` (R25). -/
  status : Status
  /-- `OUT_LEN` (R28). -/
  outLen : BitVec 16
  /-- `OUT` (R28). -/
  out : Memory
  /-- THE MODEL'S OWN: the events to come, first the next one, in the one total order of R44. -/
  events : List Event
  /-- THE MODEL'S OWN: what the read transactions have returned, oldest first. -/
  replies : List Reply
deriving DecidableEq, Repr

/-- `STATUS` after reset: 0 (R33). -/
def Status.reset : Status :=
  { busy := false, done := false, err := false, drop := false, ecode := 0, eidx := 0 }

/-- The state right after reset of an LFS built with configuration `c` (R33, R173, R175): every argument register and
`REQ` unwritten, `STATUS = 0`, `OUT_LEN = 0`, nothing known of `OUT`, the engine idle. -/
def State.resetWith (c : Config) : State :=
  { cfg := c
    num := { n0 := none, n1 := none, n2 := none, n3 := none }
    str := { s0 := none, s1 := none }
    ent := []
    req := none
    status := Status.reset
    outLen := 0
    out := []
    events := []
    replies := [] }

/-- The state right after reset, with the configuration of the spec's vectors (R33; log entry 2). -/
def State.reset : State := State.resetWith Config.vectors

end Sys2Proof.Machine
end

