-- ==== Sys2Proof/Machine/Float.lean ====
section
/-! DEFINITION. The scaling arithmetic: binary64 (R15), `RNE64` (R9, R15, R18), `SCALE_MUL` (R104), `trunc` and `rnd` (R16). -/

namespace Sys2Proof.Machine

/-- A finite binary64 value: `(-1)^neg * m * 2^e`, exactly. -/
structure FiniteF64 where
  neg : Bool
  m : Nat
  e : Int
deriving DecidableEq, Repr

/-- What a binary64 word stands for (R15). -/
inductive Binary64 where
  | nan
  | inf (neg : Bool)
  | finite (d : FiniteF64)
deriving DecidableEq, Repr

/-- The sign bit `w[63]` (R15). -/
def f64Sign (w : Word64) : Bool := w.getLsbD 63
/-- The exponent field `w[62:52]` (R15). -/
def f64Exp (w : Word64) : Nat := (w.extractLsb' 52 11).toNat
/-- The fraction field `w[51:0]` (R15). -/
def f64Frac (w : Word64) : Nat := (w.extractLsb' 0 52).toNat

/-- `binary64(w)` (R15; IEEE 754-2008, log entry 16). A zero of either sign is written `0 * 2^0`, which is the same value
as R15's `0 * 2^(-1074)` and spares an evaluator the large power. -/
def binary64 (w : Word64) : Binary64 :=
  if f64Exp w = 0x7FF then
    if f64Frac w = 0 then .inf (f64Sign w) else .nan
  else if f64Exp w = 0 then .finite { neg := f64Sign w, m := f64Frac w, e := if f64Frac w = 0 then 0 else -1074 }
  else .finite { neg := f64Sign w, m := 2 ^ 52 + f64Frac w, e := (f64Exp w : Int) - 1075 }

/-- `a / b` rounded to the nearest integer, ties to even. -/
def divHalfEven (a b : Nat) : Nat :=
  if 2 * (a % b) < b then a / b
  else if b < 2 * (a % b) then a / b + 1
  else a / b + (a / b) % 2

/-- `a / b` rounded to the nearest integer, ties away from zero. -/
def divHalfUp (a b : Nat) : Nat := (2 * a + b) / (2 * b)

/-- The integer `k` with `2^k ≤ num/den < 2^(k+1)`, for positive `num` and `den`. -/
def ratLog2 (num den : Nat) : Int :=
  let k : Int := (Nat.log2 num : Int) - (Nat.log2 den : Int)
  if num * 2 ^ (-k).toNat < den * 2 ^ k.toNat then k - 1 else k

/-- The exponent of the last place of the binary64 value nearest `num/den`: 53 significant bits, but never below the
subnormals' `-1074`. -/
def rneExp (num den : Nat) : Int := max (ratLog2 num den - 52) (-1074)

/-- Exponent and fraction fields, as one number, of the binary64 value nearest the positive rational `num/den`, ties to
even, overflowing to infinity (R15, G2). A rounding up to `2^53` carries into the exponent field by itself. -/
def rneMagnitude (num den : Nat) : Nat :=
  let e := rneExp num den
  let q := divHalfEven (num * 2 ^ (-e).toNat) (den * 2 ^ e.toNat)
  min ((e + 1074).toNat * 2 ^ 52 + q) (0x7FF * 2 ^ 52)

/-- `RNE64` of `(-1)^neg * num/den` (R15, R18); a zero keeps its sign. -/
def rne64 (neg : Bool) (num den : Nat) : Word64 :=
  BitVec.ofNat 64 ((if neg then 2 ^ 63 else 0) + (if num = 0 then 0 else rneMagnitude num den))

/-- `RNE64(x * s)`: the exact product rounded once (R9, R104). -/
def rneScale (x : FiniteF64) (s : Nat) : Word64 := rne64 x.neg (x.m * s * 2 ^ x.e.toNat) (2 ^ (-x.e).toNat)

/-- `SCALE_MUL(x, s)` for the finite `x` that the word `w` stands for (R9, R104). -/
def scaleMul (c : Config) (w : Word64) (x : FiniteF64) (s : Nat) : Word64 :=
  match c.scaleMul with
  | .rne64 => rneScale x s
  | .named id => Config.namedScaleMul id w s

/-- A sign put on a magnitude. -/
def signed (neg : Bool) (a : Nat) : Int := if neg then -(a : Int) else (a : Int)

/-- `trunc(p)`: toward zero (R16). -/
def trunc (p : FiniteF64) : Int := signed p.neg (p.m * 2 ^ p.e.toNat / 2 ^ (-p.e).toNat)

/-- `rnd(p)`: to nearest, ties by `PRESSURE_TIE` (R16). -/
def rnd (tie : PressureTie) (p : FiniteF64) : Int :=
  match tie with
  | .away => signed p.neg (divHalfUp (p.m * 2 ^ p.e.toNat) (2 ^ (-p.e).toNat))
  | .even => signed p.neg (divHalfEven (p.m * 2 ^ p.e.toNat) (2 ^ (-p.e).toNat))

/-- The conversion of a scaled field: `trunc`, or `rnd` for the pressure component (R108, R115). -/
inductive Conversion where
  | trunc
  | rnd
deriving DecidableEq, Repr

/-- The integer a conversion gives (R16). -/
def convert (c : Config) (m : Conversion) (p : FiniteF64) : Int :=
  match m with
  | .trunc => trunc p
  | .rnd => rnd c.pressureTie p

/-- The scaled and converted input word of a scaled field or component, or `none` where the input or the product is not
finite (R99, R108, R116). -/
def scaled (c : Config) (w : Word64) (s : Nat) (m : Conversion) : Option Int :=
  match binary64 w with
  | .finite x =>
    match binary64 (scaleMul c w x s) with
    | .finite p => some (convert c m p)
    | .nan | .inf _ => none
  | .nan | .inf _ => none

end Sys2Proof.Machine
end

