-- ==== Sys2Proof/Machine/Flags.lean ====
section
/-! DEFINITION. The STATUS register: its word (R25), the error codes (R157), and every way a status field changes (R76, R80, R84, R86, R87). -/

namespace Sys2Proof.Machine

/-- The errors an operation can end in (R157, R19). -/
inductive ErrorCode where
  /-- `UNKNOWN_KIND`. -/
  | unknownKind
  /-- `INVALID_ARGUMENT`. -/
  | invalidArgument
  /-- `VALUE_OUT_OF_RANGE`. -/
  | valueOutOfRange
  /-- `UNSUPPORTED_SENSOR_KIND`. -/
  | unsupportedSensorKind
deriving DecidableEq, Repr

/-- The number written to `STATUS.ECODE` (R157). -/
def ErrorCode.number : ErrorCode → BitVec 4
  | .unknownKind => 1
  | .invalidArgument => 2
  | .valueOutOfRange => 3
  | .unsupportedSensorKind => 4

/-- The 32-bit `STATUS` word: `DROP<<3 | ERR<<2 | DONE<<1 | BUSY | ECODE<<4 | EIDX<<8`, bits 31:16 zero (R25, R81). -/
def statusWord (st : Status) : BitVec 32 :=
  BitVec.ofNat 32 (st.busy.toNat + 2 ^ 1 * st.done.toNat + 2 ^ 2 * st.err.toNat + 2 ^ 3 * st.drop.toNat +
    2 ^ 4 * st.ecode.toNat + 2 ^ 8 * st.eidx.toNat)

/-- A dropped transaction sets `DROP` and nothing else (R76). -/
def statusDropped (st : Status) : Status := { st with drop := true }

/-- `CLEAR` clears `DROP` and nothing else (R84). -/
def statusCleared (st : Status) : Status := { st with drop := false }

/-- An accepted `START` (R80); `DROP` is unchanged. -/
def statusStarted (st : Status) : Status :=
  { st with busy := true, done := false, err := false, ecode := 0, eidx := 0 }

/-- A successful completion (R86); `DROP` is unchanged. -/
def statusSucceeded (st : Status) : Status :=
  { st with busy := false, done := true, err := false, ecode := 0, eidx := 0 }

/-- An error completion with code `c` and index `i` (R87, R158); `DROP` is unchanged. -/
def statusFailed (c : ErrorCode) (i : Byte) (st : Status) : Status :=
  { st with busy := false, done := true, err := true, ecode := c.number, eidx := i }

end Sys2Proof.Machine
end

