-- ==== Sys2Proof/Machine/Ops.lean ====
section
/-! DEFINITION. The named operations over registers and OUT (R17, R21 to R23, R28, R35), and the one completion of an operation: with a frame (R86), with an error (R87, R161) or in the model's fault (R164). -/

namespace Sys2Proof.Machine

/-- What is stored under key `k` of a list of key and value pairs. -/
def lookupKey {α : Type} (l : List (Nat × α)) (k : Nat) : Option α :=
  match l with
  | [] => none
  | (j, v) :: rest => if k = j then some v else lookupKey rest k

/-- The list with `v` under key `k`, keeping the keys strictly rising. -/
def storeKey {α : Type} (l : List (Nat × α)) (k : Nat) (v : α) : List (Nat × α) :=
  match l with
  | [] => [(k, v)]
  | (j, u) :: rest =>
    if k < j then (k, v) :: (j, u) :: rest
    else if k = j then (k, v) :: rest
    else (j, u) :: storeKey rest k v

/-- The canonical form: every key of the list is above `lo` and the keys rise strictly. -/
def keysRise {α : Type} (lo : Option Nat) (l : List (Nat × α)) : Bool :=
  match l with
  | [] => true
  | (j, _) :: rest => (match lo with | none => true | some b => decide (b < j)) && keysRise (some j) rest

/-- The canonical form of `OUT`: addresses strictly rising. An unlisted address reads as no value, so no entry can
equal what an unlisted address reads as. -/
def Memory.wf (m : Memory) : Bool := keysRise none m

/-- The byte of `OUT` at address `a`; `none` where no frame has been written (R33; log entry 5). -/
def Memory.read (m : Memory) (a : Nat) : Option Byte := lookupKey m a

/-- `MemWrite(a, len(bs), bs)`: `OUT[a+i] <- bs[i]` (R17). -/
def Memory.write (m : Memory) (a : Nat) (bs : Bytes) : Memory :=
  match bs with
  | [] => m
  | b :: rest => Memory.write (storeKey m a b) (a + 1) rest

/-- The numeric argument registers by name (R21). -/
inductive NReg where
  | n0
  | n1
  | n2
  | n3
deriving DecidableEq, Repr

/-- The string argument registers by name (R22). -/
inductive SReg where
  | s0
  | s1
deriving DecidableEq, Repr

/-- The numeric register of an index, if there is one (R76: `i >= 4` is none). -/
def nregOfIndex (i : Byte) : Option NReg :=
  match i.toNat with
  | 0 => some .n0
  | 1 => some .n1
  | 2 => some .n2
  | 3 => some .n3
  | _ => none

/-- The string register of an index, if there is one (R76: `j >= 2` is none). -/
def sregOfIndex (j : Byte) : Option SReg :=
  match j.toNat with
  | 0 => some .s0
  | 1 => some .s1
  | _ => none

/-- `N[r]`; `none` when its written bit is clear (R17, R27). -/
def readNum (f : NumFile) : NReg → Option Word64
  | .n0 => f.n0
  | .n1 => f.n1
  | .n2 => f.n2
  | .n3 => f.n3

/-- `N[r] <- v`, setting its written bit (R27, R77). -/
def writeNum (f : NumFile) (r : NReg) (v : Word64) : NumFile :=
  match r with
  | .n0 => { f with n0 := some v }
  | .n1 => { f with n1 := some v }
  | .n2 => { f with n2 := some v }
  | .n3 => { f with n3 := some v }

/-- `S[r]`; `none` when its written bit is clear (R17, R27). -/
def readStr (f : StrFile) : SReg → Option Bytes
  | .s0 => f.s0
  | .s1 => f.s1

/-- `S[r] <- b` and `SLEN[r] <- len(b)`, setting its written bit (R27, R78). -/
def writeStr (f : StrFile) (r : SReg) (b : Bytes) : StrFile :=
  match r with
  | .s0 => { f with s0 := some b }
  | .s1 => { f with s1 := some b }

/-- `E[k]`; `none` when its written bit is clear (R17, R27). -/
def readEntry (f : EntryFile) (k : Nat) : Option Entry := lookupKey f k

/-- `E[k] <- en`, setting its written bit (R27, R79). -/
def writeEntry (f : EntryFile) (k : Nat) (en : Entry) : EntryFile := storeKey f k en

/-- How an operation ends without a frame: a `raise` (R17, R87) or the model's fault (R164). -/
inductive Stop where
  /-- `raise c(i)` (R17). -/
  | raise (c : ErrorCode) (i : Byte)
  /-- `fault UnwrittenArgument` (R164). -/
  | unwritten
deriving DecidableEq, Repr

/-- What `perform` gives: a frame `Ok(F)`, an error `Err(c, i)`, or the fault (R85). -/
abbrev Encoded := Except Stop Bytes

/-- The request word that the engine reads (R24, R85). Before the first accepted `START` it is a free value (I3; log
entry 4); no run gets there, since the engine runs only after a `START`. -/
def requestWord (s : State) : ReqWord := s.req.getD Config.unspecifiedReq

/-- Successful completion with frame `F` (R48, R86): the whole frame is written at once, `OUT` beyond it is left. -/
def succeed (frame : Bytes) (s : State) : State :=
  { s with
    out := Memory.write s.out 0 frame
    outLen := BitVec.ofNat 16 frame.length
    status := statusSucceeded s.status }

/-- Error completion (R87, R161): only STATUS is written. This is the LFS's one exception entry; it has no vector and
saves no program counter, and the next accepted `START` is its only return (R162). -/
def failWith (c : ErrorCode) (i : Byte) (s : State) : State :=
  { s with status := statusFailed c i s.status }

/-- The completion of an operation (R85): R86, R87 or the fault of R164. -/
def complete (r : Encoded) (s : State) : Host.Outcome State Fault Refusal :=
  match r with
  | .ok frame => if frame.length ≤ s.cfg.outCap then .next (succeed frame s) else .fault .frameBeyondOut
  | .error (.raise c i) => .next (failWith c i s)
  | .error .unwritten => .fault .unwrittenArgument

end Sys2Proof.Machine
end

