-- ==== Sys2Proof/Machine/Operands.lean ====
section
/-! DEFINITION. The operand forms: byte orders (R13, R14), the field kinds of a command row (R95 to R103, R110) and the components of a sensor row (R108). -/

namespace Sys2Proof.Machine

/-- Byte `i` of the `n`-byte two's-complement pattern of `v`, counted from the least significant (R13, R14):
`(v mod 2^(8n)) div 2^(8i) mod 256`. -/
def patternByte (v : Int) (n i : Nat) : Byte :=
  BitVec.ofNat 8 ((v % ((2 ^ (8 * n) : Nat) : Int)).toNat / 2 ^ (8 * i))

/-- `LE(v, n)`: least significant byte first (R14). -/
def le (v : Int) (n : Nat) : Bytes := (List.range n).map (fun i => patternByte v n i)

/-- `BE(v, n)`: most significant byte first (R14). -/
def be (v : Int) (n : Nat) : Bytes := (List.range n).map (fun i => patternByte v n (n - 1 - i))

/-- An `n`-byte unsigned field holds `v` (R13). -/
def fitsUnsigned (n : Nat) (v : Int) : Bool := decide (0 ≤ v) && decide (v < ((2 ^ (8 * n) : Nat) : Int))

/-- An `n`-byte signed field holds `v` (R13). -/
def fitsSigned (n : Nat) (v : Int) : Bool :=
  decide (-((2 ^ (8 * n - 1) : Nat) : Int) ≤ v) && decide (v < ((2 ^ (8 * n - 1) : Nat) : Int))

/-- The field kinds of a command row, a closed set (R95). -/
inductive FieldKind where
  /-- `CONST(b)` (R110). -/
  | const (b : Bytes)
  /-- `UINT(n, Ni)` (R96). -/
  | uint (n : Nat) (r : NReg)
  /-- `ENUM(Ni, max)` (R97). -/
  | enum (r : NReg) (max : Nat)
  /-- `FLAG(Ni, b)` (R98). -/
  | flag (r : NReg) (b : Byte)
  /-- `SFIX(n, Ni, s)` (R99). -/
  | sfix (n : Nat) (r : NReg) (scale : Nat)
  /-- `UFIX(n, Ni, s)` (R99). -/
  | ufix (n : Nat) (r : NReg) (scale : Nat)
  /-- `TEXT(Sj)` (R100). -/
  | text (r : SReg)
  /-- `PADT(Sj, W)` (R101). -/
  | padT (r : SReg) (width : Nat)
  /-- `PADX(Sj, W)` (R101). -/
  | padX (r : SReg) (width : Nat)
  /-- `PREFIX6(Sj)` (R102). -/
  | prefix6 (r : SReg)
  /-- `RAW(Sj, W)` (R103). -/
  | raw (r : SReg) (width : Nat)
deriving DecidableEq, Repr

/-- A component of a sensor row: `BES` (signed) or `BEU` (unsigned), `n` bytes, scale, conversion (R95, R108). -/
structure Component where
  signed : Bool
  n : Nat
  scale : Nat
  conv : Conversion
deriving DecidableEq, Repr

/-- The numeric register a field names, if it names one (R95). -/
def fieldNum : FieldKind → Option NReg
  | .uint _ r | .enum r _ | .flag r _ | .sfix _ r _ | .ufix _ r _ => some r
  | .const _ | .text _ | .padT _ _ | .padX _ _ | .prefix6 _ | .raw _ _ => none

/-- The string register a field names, if it names one (R95). -/
def fieldStr : FieldKind → Option SReg
  | .text r | .padT r _ | .padX r _ | .prefix6 r | .raw r _ => some r
  | .const _ | .uint _ _ | .enum _ _ | .flag _ _ | .sfix _ _ _ | .ufix _ _ _ => none

/-- The register a field names is written, or it names none (R105, R106). -/
def fieldWritten (num : NumFile) (str : StrFile) (fd : FieldKind) : Bool :=
  (match fieldNum fd with | some r => (readNum num r).isSome | none => true) &&
    (match fieldStr fd with | some r => (readStr str r).isSome | none => true)

/-- A numeric argument for a field's encoder, or the fault (R27). -/
def withNum (num : NumFile) (r : NReg) (k : Word64 → Encoded) : Encoded :=
  match readNum num r with
  | some w => k w
  | none => .error .unwritten

/-- A string argument for a field's encoder, or the fault (R27). -/
def withStr (str : StrFile) (r : SReg) (k : Bytes → Encoded) : Encoded :=
  match readStr str r with
  | some b => k b
  | none => .error .unwritten

/-- `raise INVALID_ARGUMENT(f)` (R96 to R103, R158). -/
def raiseInvalid (f : Byte) : Encoded := .error (.raise .invalidArgument f)

/-- `UINT(n, ·)` of the argument `w` (R96). -/
def encodeUint (n : Nat) (w : Word64) (f : Byte) : Encoded :=
  if 2 ^ (8 * n) ≤ w.toNat then raiseInvalid f else .ok (le w.toNat n)

/-- `ENUM(·, max)` of the argument `w` (R97). -/
def encodeEnum (max : Nat) (w : Word64) (f : Byte) : Encoded :=
  if max < w.toNat then raiseInvalid f else .ok [BitVec.ofNat 8 w.toNat]

/-- `FLAG(·, b)` of the argument `w` (R98). -/
def encodeFlag (b : Byte) (w : Word64) (f : Byte) : Encoded :=
  if w.toNat = 0 then .ok [] else if w.toNat = 1 then .ok [b] else raiseInvalid f

/-- `SFIX(n, ·, s)` of the argument `w` (R99). -/
def encodeSfix (c : Config) (n scale : Nat) (w : Word64) (f : Byte) : Encoded :=
  match scaled c w scale .trunc with
  | none => raiseInvalid f
  | some q => if fitsSigned n q then .ok (le q n) else raiseInvalid f

/-- `UFIX(n, ·, s)` of the argument `w` (R99). -/
def encodeUfix (c : Config) (n scale : Nat) (w : Word64) (f : Byte) : Encoded :=
  match scaled c w scale .trunc with
  | none => raiseInvalid f
  | some q => if fitsUnsigned n q then .ok (le q n) else raiseInvalid f

/-- `b` zero-padded on the right to `width` bytes (R101). -/
def padTo (width : Nat) (b : Bytes) : Bytes := b ++ zeros (width - b.length)

/-- `PADT(·, W)` of the argument `b`: truncating (R101, R112). -/
def encodePadT (width : Nat) (b : Bytes) : Encoded := .ok (padTo width (b.take width))

/-- `PADX(·, W)` of the argument `b`: an over-long input is an error (R101, R112). -/
def encodePadX (width : Nat) (b : Bytes) (f : Byte) : Encoded :=
  if width < b.length then raiseInvalid f else .ok (padTo width b)

/-- `PREFIX6(·)` of the argument `b` (R102). -/
def encodePrefix6 (b : Bytes) (f : Byte) : Encoded :=
  if b.length < 6 ∨ 32 < b.length then raiseInvalid f else .ok (b.take 6)

/-- `RAW(·, W)` of the argument `b` (R103). -/
def encodeRaw (width : Nat) (b : Bytes) (f : Byte) : Encoded :=
  if b.length = width then .ok b else raiseInvalid f

/-- `encodeField(field, f)`: what a field emits at position `f` (R96 to R103, R105, R110). -/
def encodeField (c : Config) (num : NumFile) (str : StrFile) (fd : FieldKind) (f : Byte) : Encoded :=
  match fd with
  | .const b => .ok b
  | .uint n r => withNum num r (fun w => encodeUint n w f)
  | .enum r max => withNum num r (fun w => encodeEnum max w f)
  | .flag r b => withNum num r (fun w => encodeFlag b w f)
  | .sfix n r scale => withNum num r (fun w => encodeSfix c n scale w f)
  | .ufix n r scale => withNum num r (fun w => encodeUfix c n scale w f)
  | .text r => withStr str r (fun b => .ok b)
  | .padT r width => withStr str r (fun b => encodePadT width b)
  | .padX r width => withStr str r (fun b => encodePadX width b f)
  | .prefix6 r => withStr str r (fun b => encodePrefix6 b f)
  | .raw r width => withStr str r (fun b => encodeRaw width b f)

/-- A component of entry register `e`, of the component word `w` (R108): big-endian; any failure raises
`VALUE_OUT_OF_RANGE(e)`. -/
def encodeComponent (c : Config) (cp : Component) (w : Word64) (e : Byte) : Encoded :=
  match scaled c w cp.scale cp.conv with
  | none => .error (.raise .valueOutOfRange e)
  | some q =>
    if (if cp.signed then fitsSigned cp.n q else fitsUnsigned cp.n q) then .ok (be q cp.n)
    else .error (.raise .valueOutOfRange e)

end Sys2Proof.Machine
end

