-- ==== Sys2Proof/Machine/Registry.lean ====
section
/-! DEFINITION. The Layout Registry ROM (R32, R93, R94, R111): one row per command kind and per sensor kind, and the two encoders, which are interpreters of a row (R105 to R107, R147, R155, R156). -/

namespace Sys2Proof.Machine

/-- A command row (R93). -/
structure CmdRow where
  opcode : Byte
  sub : Option Byte
  fields : List FieldKind
deriving DecidableEq, Repr

/-- A sensor row (R93). -/
structure SensorRow where
  type : Byte
  comps : List Component
deriving DecidableEq, Repr

/-- The row of `CMD.appStart` (R119). -/
def appStartRow : CmdRow := { opcode := 0x01, sub := some 0x03, fields := [.const [0x20, 0x20, 0x20, 0x20, 0x20, 0x20], .padT .s0 5] }

/-- The row of `CMD.deviceQuery` (R120). -/
def deviceQueryRow : CmdRow := { opcode := 0x16, sub := some 0x03, fields := [] }

/-- The row of `CMD.getBattery` (R121). -/
def getBatteryRow : CmdRow := { opcode := 0x14, sub := none, fields := [] }

/-- The row of `CMD.getTime` (R122). -/
def getTimeRow : CmdRow := { opcode := 0x05, sub := none, fields := [] }

/-- The row of `CMD.setTime` (R123). -/
def setTimeRow : CmdRow := { opcode := 0x06, sub := none, fields := [.uint 4 .n0] }

/-- The row of `CMD.setName` (R124). -/
def setNameRow : CmdRow := { opcode := 0x08, sub := none, fields := [.text .s0] }

/-- The row of `CMD.setCoords` (R125). -/
def setCoordsRow : CmdRow := { opcode := 0x0E, sub := none, fields := [.sfix 4 .n0 1000000, .sfix 4 .n1 1000000, .const [0, 0, 0, 0]] }

/-- The row of `CMD.setTxPower` (R126). -/
def setTxPowerRow : CmdRow := { opcode := 0x0C, sub := none, fields := [.uint 4 .n0] }

/-- The row of `CMD.setRadio` (R127). -/
def setRadioRow : CmdRow := { opcode := 0x0B, sub := none, fields := [.ufix 4 .n0 1000, .ufix 4 .n1 1000, .uint 1 .n2, .uint 1 .n3] }

/-- The row of `CMD.sendAdvertisement` (R128). -/
def sendAdvertisementRow : CmdRow := { opcode := 0x07, sub := none, fields := [.flag .n0 0x01] }

/-- The row of `CMD.reboot` (R129). -/
def rebootRow : CmdRow := { opcode := 0x13, sub := none, fields := [.const [0x72, 0x65, 0x62, 0x6F, 0x6F, 0x74]] }

/-- The row of `CMD.getContacts` (R130). -/
def getContactsRow : CmdRow := { opcode := 0x04, sub := none, fields := [] }

/-- The row of `CMD.getMessage` (R131). -/
def getMessageRow : CmdRow := { opcode := 0x0A, sub := none, fields := [] }

/-- The row of `CMD.sendMessage` (R132). -/
def sendMessageRow : CmdRow := { opcode := 0x02, sub := some 0x00, fields := [.uint 1 .n0, .uint 4 .n1, .prefix6 .s0, .text .s1] }

/-- The row of `CMD.sendCommand` (R133). -/
def sendCommandRow : CmdRow := { opcode := 0x02, sub := some 0x01, fields := [.const [0x00], .uint 4 .n0, .prefix6 .s0, .text .s1] }

/-- The row of `CMD.sendChannelMessage` (R134). -/
def sendChannelMessageRow : CmdRow := { opcode := 0x03, sub := some 0x00, fields := [.uint 1 .n0, .uint 4 .n1, .text .s0] }

/-- The row of `CMD.sendLogin` (R135). -/
def sendLoginRow : CmdRow := { opcode := 0x1A, sub := none, fields := [.padX .s0 32, .text .s1] }

/-- The row of `CMD.sendLogout` (R136). -/
def sendLogoutRow : CmdRow := { opcode := 0x1D, sub := none, fields := [.padX .s0 32] }

/-- The row of `CMD.sendStatusRequest` (R137). -/
def sendStatusRequestRow : CmdRow := { opcode := 0x1B, sub := none, fields := [.padX .s0 32] }

/-- The row of `CMD.getChannel` (R138). -/
def getChannelRow : CmdRow := { opcode := 0x1F, sub := none, fields := [.uint 1 .n0] }

/-- The row of `CMD.setChannel` (R139). -/
def setChannelRow : CmdRow := { opcode := 0x20, sub := none, fields := [.uint 1 .n0, .padT .s0 32, .raw .s1 16] }

/-- The row of `CMD.getStats` (R140). -/
def getStatsRow : CmdRow := { opcode := 0x38, sub := none, fields := [.enum .n0 2] }

/-- The row of `CMD.getSelfTelemetry` (R141). -/
def getSelfTelemetryRow : CmdRow := { opcode := 0x27, sub := none, fields := [.const [0, 0, 0]] }

/-- The row of `CMD.exportPrivateKey` (R142). -/
def exportPrivateKeyRow : CmdRow := { opcode := 0x17, sub := none, fields := [] }

/-- The row of `CMD.signStart` (R143). -/
def signStartRow : CmdRow := { opcode := 0x21, sub := none, fields := [] }

/-- The row of `CMD.signFinish` (R144). -/
def signFinishRow : CmdRow := { opcode := 0x23, sub := none, fields := [] }

/-- The row of `CMD.pathDiscovery` (R145). -/
def pathDiscoveryRow : CmdRow := { opcode := 0x34, sub := none, fields := [.padX .s0 32] }

/-- The row of `CMD.sendTrace` (R146). -/
def sendTraceRow : CmdRow := { opcode := 0x24, sub := none, fields := [.uint 4 .n0, .uint 4 .n1, .uint 1 .n2] }

/-- `LR.cmd`: the 28 command rows, in the order of their kind identifiers (R63, R94). -/
def commandRegistry : List CmdRow :=
  [appStartRow, deviceQueryRow, getBatteryRow, getTimeRow, setTimeRow, setNameRow, setCoordsRow] ++
  [setTxPowerRow, setRadioRow, sendAdvertisementRow, rebootRow, getContactsRow, getMessageRow, sendMessageRow] ++
  [sendCommandRow, sendChannelMessageRow, sendLoginRow, sendLogoutRow, sendStatusRequestRow, getChannelRow, setChannelRow] ++
  [getStatsRow, getSelfTelemetryRow, exportPrivateKeyRow, signStartRow, signFinishRow, pathDiscoveryRow, sendTraceRow]

/-- `BES(n, s, m)`, a signed component (R95). -/
def bes (n scale : Nat) (m : Conversion) : Component := { signed := true, n := n, scale := scale, conv := m }

/-- `BEU(n, s, m)`, an unsigned component (R95). -/
def beu (n scale : Nat) (m : Conversion) : Component := { signed := false, n := n, scale := scale, conv := m }

/-- The row of Temperature (R149). -/
def tempRow : SensorRow := { type := 0x67, comps := [bes 2 10 .trunc] }

/-- The row of Humidity (R150). -/
def humRow : SensorRow := { type := 0x68, comps := [beu 1 2 .trunc] }

/-- The row of Analog input (R151). -/
def analogRow : SensorRow := { type := 0x02, comps := [bes 2 100 .trunc] }

/-- The row of GPS (R152). -/
def gpsRow : SensorRow := { type := 0x88, comps := [bes 3 10000 .trunc, bes 3 10000 .trunc, bes 3 100 .trunc] }

/-- The row of Barometric pressure (R153). -/
def baroRow : SensorRow := { type := 0x73, comps := [beu 2 10 .rnd] }

/-- The row of Accelerometer (R154). -/
def accelRow : SensorRow := { type := 0x71, comps := [bes 2 1000 .trunc, bes 2 1000 .trunc, bes 2 1000 .trunc] }

/-- `LR.lpp`: the six sensor rows, in the order of their kind identifiers (R66, R94). -/
def sensorRegistry : List SensorRow := [tempRow, humRow, analogRow, gpsRow, baroRow, accelRow]

/-- Every argument register that the row names has been written (R106). -/
def rowWritten (num : NumFile) (str : StrFile) (row : CmdRow) : Bool := row.fields.all (fieldWritten num str)

/-- The fields from position `f` on, in frame order; the first that fails ends the frame (R105, R107, R160). -/
def encodeFields (c : Config) (num : NumFile) (str : StrFile) (fields : List FieldKind) (f : Nat) : Encoded :=
  match fields with
  | [] => .ok []
  | fd :: rest =>
    match encodeField c num str fd (BitVec.ofNat 8 f) with
    | .error e => .error e
    | .ok b =>
      match encodeFields c num str rest (f + 1) with
      | .error e => .error e
      | .ok bs => .ok (b ++ bs)

/-- The opcode byte and the sub-opcode byte, if there is one (R65, R105). -/
def rowHead (row : CmdRow) : Bytes :=
  match row.sub with
  | some b => [row.opcode, b]
  | none => [row.opcode]

/-- `encodeCommand`: the Command Frame Encoder (R105). The written check comes before every field check (R106). -/
def encodeCommand (row : CmdRow) (c : Config) (num : NumFile) (str : StrFile) : Encoded :=
  if rowWritten num str row then
    match encodeFields c num str row.fields 0 with
    | .error e => .error e
    | .ok bs => .ok (rowHead row ++ bs)
  else .error .unwritten

/-- The components of a row with their words, `C0` first; the first that fails ends the entry (R147, R160). -/
def encodeComponents (c : Config) (e : Byte) (comps : List Component) (words : List Word64) : Encoded :=
  match comps, words with
  | cp :: cps, w :: ws =>
    match encodeComponent c cp w e with
    | .error x => .error x
    | .ok b =>
      match encodeComponents c e cps ws with
      | .error x => .error x
      | .ok bs => .ok (b ++ bs)
  | _, _ => .ok []

/-- The three component words of an entry register (R23). -/
def entryWords (en : Entry) : List Word64 := [en.c0, en.c1, en.c2]

/-- An entry encoded by a sensor row on channel `ch`: `[CH, type]` and the components (R147, R148). -/
def encodeSensor (row : SensorRow) (ch : Byte) (c : Config) (en : Entry) (e : Byte) : Encoded :=
  match encodeComponents c e row.comps (entryWords en) with
  | .error x => .error x
  | .ok bs => .ok (ch :: row.type :: bs)

/-- `entryBytes(en, e)`: the sensor kind is checked first (R147). -/
def entryBytes (c : Config) (en : Entry) (e : Byte) : Encoded :=
  match sensorRegistry[en.sk.toNat]? with
  | none => .error (.raise .unsupportedSensorKind e)
  | some row => encodeSensor row en.ch c en e

/-- `encodeEntry(E, k)` for `k < LPP_SLOTS` (R155). -/
def encodeEntry (c : Config) (ent : EntryFile) (k : Byte) : Encoded :=
  match readEntry ent k.toNat with
  | none => .error .unwritten
  | some en => entryBytes c en k

/-- `E[0] .. E[n-1]` have all been written (R156). -/
def entriesWritten (ent : EntryFile) (n : Nat) : Bool := (List.range n).all (fun i => (readEntry ent i).isSome)

/-- The `count` entries from index `i` on, in index order, with no separators; the first that fails ends the frame (R156, R160). -/
def encodeEntries (c : Config) (ent : EntryFile) (i count : Nat) : Encoded :=
  match count with
  | 0 => .ok []
  | k + 1 =>
    match encodeEntry c ent (BitVec.ofNat 8 i) with
    | .error x => .error x
    | .ok b =>
      match encodeEntries c ent (i + 1) k with
      | .error x => .error x
      | .ok bs => .ok (b ++ bs)

/-- `encodeFrame(E, n)` for `n <= LPP_SLOTS` (R156). The written check covers all entries before any is encoded. -/
def encodeFrame (c : Config) (ent : EntryFile) (n : Byte) : Encoded :=
  if entriesWritten ent n.toNat then encodeEntries c ent 0 n.toNat else .error .unwritten

/-- A command's completion: its row is encoded from the argument registers, and the operation completes (R85, R88, R105). -/
def runCommand (row : CmdRow) (s : State) : Host.Outcome State Fault Refusal :=
  complete (encodeCommand row s.cfg s.num s.str) s

/-- A sensor row's completion, for the entry register `k` that the request in `REQ` names (R60, R147, R155): what
`LPP.ENTRY k` does when `E[k]` holds this sensor kind and this channel (log entry 12). -/
def runSensor (row : SensorRow) (ch : Byte) (s : State) : Host.Outcome State Fault Refusal :=
  let k := reqArg (requestWord s)
  if s.cfg.lppSlots ≤ k.toNat then .next (failWith .invalidArgument k s)
  else match readEntry s.ent k.toNat with
    | none => complete (.error .unwritten) s
    | some en => complete (encodeSensor row ch s.cfg en k) s

end Sys2Proof.Machine
end

