-- ==== Sys2Proof/Machine/CmdChannel.lean ====
section
/-! DEFINITION. Commands 19 to 27: channels, statistics, keys, paths and trace (R138 to R146). Each meaning is the engine's completion step for its request (R85): the row interpreted over the argument registers. -/

namespace Sys2Proof.Machine

/-- `CMD.getChannel` (R138). Frame: `1F`, then F0 `UINT(1, N0)`. Length 2. Reads: `N0`, the channel index. -/
def execGetChannel (s : State) : Host.Outcome State Fault Refusal := runCommand getChannelRow s

/-- `CMD.setChannel` (R139). Frame: `20`, then F0 `UINT(1, N0)`, F1 `PADT(S0, 32)`, F2 `RAW(S1, 16)`. Length 50. Reads: `N0`, the index; `S0`, the name; `S1`, the secret. -/
def execSetChannel (s : State) : Host.Outcome State Fault Refusal := runCommand setChannelRow s

/-- `CMD.getStats` (R140). Frame: `38`, then F0 `ENUM(N0, 2)`. Length 2. Reads: `N0`, the statistics selector. -/
def execGetStats (s : State) : Host.Outcome State Fault Refusal := runCommand getStatsRow s

/-- `CMD.getSelfTelemetry` (R141). Frame: `27`, then F0 `CONST(00 00 00)`. Length 4. Reads: nothing. -/
def execGetSelfTelemetry (s : State) : Host.Outcome State Fault Refusal := runCommand getSelfTelemetryRow s

/-- `CMD.exportPrivateKey` (R142). Frame: `17`. Length 1. Reads: nothing. -/
def execExportPrivateKey (s : State) : Host.Outcome State Fault Refusal := runCommand exportPrivateKeyRow s

/-- `CMD.signStart` (R143). Frame: `21`. Length 1. Reads: nothing. -/
def execSignStart (s : State) : Host.Outcome State Fault Refusal := runCommand signStartRow s

/-- `CMD.signFinish` (R144). Frame: `23`. Length 1. Reads: nothing. -/
def execSignFinish (s : State) : Host.Outcome State Fault Refusal := runCommand signFinishRow s

/-- `CMD.pathDiscovery` (R145). Frame: `34`, then F0 `PADX(S0, 32)`. Length 33. Reads: `S0`, the destination identity. -/
def execPathDiscovery (s : State) : Host.Outcome State Fault Refusal := runCommand pathDiscoveryRow s

/-- `CMD.sendTrace` (R146). Frame: `24`, then F0 `UINT(4, N0)`, F1 `UINT(4, N1)`, F2 `UINT(1, N2)`. Length 10. Reads: `N0`, the tag; `N1`, the auth; `N2`, the flags. -/
def execSendTrace (s : State) : Host.Outcome State Fault Refusal := runCommand sendTraceRow s

end Sys2Proof.Machine
end

