-- ==== Sys2Proof/Machine/CmdDevice.lean ====
section
/-! DEFINITION. Commands 0 to 10: session start and device configuration (R119 to R129). Each meaning is the engine's completion step for its request (R85): the row interpreted over the argument registers. -/

namespace Sys2Proof.Machine

/-- `CMD.appStart` (R119). Frame: `01 03`, then F0 `CONST(20 20 20 20 20 20)`, then F1 `PADT(S0, 5)`. Length 13. Reads: `S0`, the client id. -/
def execAppStart (s : State) : Host.Outcome State Fault Refusal := runCommand appStartRow s

/-- `CMD.deviceQuery` (R120). Frame: `16 03`. Length 2. Reads: nothing. -/
def execDeviceQuery (s : State) : Host.Outcome State Fault Refusal := runCommand deviceQueryRow s

/-- `CMD.getBattery` (R121). Frame: `14`. Length 1. Reads: nothing. -/
def execGetBattery (s : State) : Host.Outcome State Fault Refusal := runCommand getBatteryRow s

/-- `CMD.getTime` (R122). Frame: `05`. Length 1. Reads: nothing. -/
def execGetTime (s : State) : Host.Outcome State Fault Refusal := runCommand getTimeRow s

/-- `CMD.setTime` (R123). Frame: `06`, then F0 `UINT(4, N0)`. Length 5. Reads: `N0`, the timestamp in seconds since the epoch. -/
def execSetTime (s : State) : Host.Outcome State Fault Refusal := runCommand setTimeRow s

/-- `CMD.setName` (R124). Frame: `08`, then F0 `TEXT(S0)`. Length `1 + SLEN[0]`. Reads: `S0`, the name. -/
def execSetName (s : State) : Host.Outcome State Fault Refusal := runCommand setNameRow s

/-- `CMD.setCoords` (R125). Frame: `0E`, then F0 `SFIX(4, N0, 1000000)`, F1 `SFIX(4, N1, 1000000)`, F2 `CONST(00 00 00 00)`. Length 13. Reads: `N0`, the latitude in degrees, and `N1`, the longitude in degrees. Both are binary64. -/
def execSetCoords (s : State) : Host.Outcome State Fault Refusal := runCommand setCoordsRow s

/-- `CMD.setTxPower` (R126). Frame: `0C`, then F0 `UINT(4, N0)`. Length 5. Reads: `N0`, the power as an unsigned integer. The source's "SF10 power values ×1" is read as a unit scale, so the field is not scaled. -/
def execSetTxPower (s : State) : Host.Outcome State Fault Refusal := runCommand setTxPowerRow s

/-- `CMD.setRadio` (R127). Frame: `0B`, then F0 `UFIX(4, N0, 1000)`, F1 `UFIX(4, N1, 1000)`, F2 `UINT(1, N2)`, F3 `UINT(1, N3)`. Length 11. Reads: `N0`, the frequency in MHz, binary64; `N1`, the bandwidth, binary64; `N2`, the spreading factor, unsigned; `N3`, the coding rate, unsigned. -/
def execSetRadio (s : State) : Host.Outcome State Fault Refusal := runCommand setRadioRow s

/-- `CMD.sendAdvertisement` (R128). Frame: `07`, then F0 `FLAG(N0, 01)`. Length 1 when `N0 = 0` and 2 when `N0 = 1`. Reads: `N0`, the flood flag: 0 means no flood and 1 means flood. -/
def execSendAdvertisement (s : State) : Host.Outcome State Fault Refusal := runCommand sendAdvertisementRow s

/-- `CMD.reboot` (R129). Frame: `13`, then F0 `CONST(72 65 62 6F 6F 74)`. Length 7. Reads: nothing. -/
def execReboot (s : State) : Host.Outcome State Fault Refusal := runCommand rebootRow s

end Sys2Proof.Machine
end

