-- ==== Sys2Proof/Machine/CmdMessaging.lean ====
section
/-! DEFINITION. Commands 11 to 18: contacts, messaging and sessions (R130 to R137). Each meaning is the engine's completion step for its request (R85): the row interpreted over the argument registers. -/

namespace Sys2Proof.Machine

/-- `CMD.getContacts` (R130). Frame: `04`. Length 1. Reads: nothing. -/
def execGetContacts (s : State) : Host.Outcome State Fault Refusal := runCommand getContactsRow s

/-- `CMD.getMessage` (R131). Frame: `0A`. Length 1. Reads: nothing. -/
def execGetMessage (s : State) : Host.Outcome State Fault Refusal := runCommand getMessageRow s

/-- `CMD.sendMessage` (R132). Frame: `02 00`, then F0 `UINT(1, N0)`, F1 `UINT(4, N1)`, F2 `PREFIX6(S0)`, F3 `TEXT(S1)`. Length `13 + SLEN[1]`. Reads: `N0`, the attempt; `N1`, the timestamp; `S0`, the destination; `S1`, the message. -/
def execSendMessage (s : State) : Host.Outcome State Fault Refusal := runCommand sendMessageRow s

/-- `CMD.sendCommand` (R133). Frame: `02 01`, then F0 `CONST(00)`, F1 `UINT(4, N0)`, F2 `PREFIX6(S0)`, F3 `TEXT(S1)`. Length `13 + SLEN[1]`. Reads: `N0`, the timestamp; `S0`, the destination; `S1`, the command text. -/
def execSendCommand (s : State) : Host.Outcome State Fault Refusal := runCommand sendCommandRow s

/-- `CMD.sendChannelMessage` (R134). Frame: `03 00`, then F0 `UINT(1, N0)`, F1 `UINT(4, N1)`, F2 `TEXT(S0)`. Length `7 + SLEN[0]`. Reads: `N0`, the channel; `N1`, the timestamp; `S0`, the message. -/
def execSendChannelMessage (s : State) : Host.Outcome State Fault Refusal := runCommand sendChannelMessageRow s

/-- `CMD.sendLogin` (R135). Frame: `1A`, then F0 `PADX(S0, 32)`, F1 `TEXT(S1)`. Length `33 + SLEN[1]`. Reads: `S0`, the destination identity; `S1`, the password. -/
def execSendLogin (s : State) : Host.Outcome State Fault Refusal := runCommand sendLoginRow s

/-- `CMD.sendLogout` (R136). Frame: `1D`, then F0 `PADX(S0, 32)`. Length 33. Reads: `S0`, the destination identity. -/
def execSendLogout (s : State) : Host.Outcome State Fault Refusal := runCommand sendLogoutRow s

/-- `CMD.sendStatusRequest` (R137). Frame: `1B`, then F0 `PADX(S0, 32)`. Length 33. Reads: `S0`, the destination identity. -/
def execSendStatusRequest (s : State) : Host.Outcome State Fault Refusal := runCommand sendStatusRequestRow s

end Sys2Proof.Machine
end

