-- ==== Sys2Proof/Machine/Lpp.lean ====
section
/-! DEFINITION. The LPP requests and the sensor kinds (R147 to R156). -/

namespace Sys2Proof.Machine

/-- `LPP.ENTRY k` (R60, R155): an index `k >= LPP_SLOTS` completes with `INVALID_ARGUMENT(k)` and reads no register. -/
def execLppEntry (k : Byte) (s : State) : Host.Outcome State Fault Refusal :=
  if s.cfg.lppSlots ≤ k.toNat then .next (failWith .invalidArgument k s)
  else complete (encodeEntry s.cfg s.ent k) s

/-- `LPP.FRAME n` (R60, R156): a count `n > LPP_SLOTS` completes with `INVALID_ARGUMENT(n)` and reads no register. -/
def execLppFrame (n : Byte) (s : State) : Host.Outcome State Fault Refusal :=
  if s.cfg.lppSlots < n.toNat then .next (failWith .invalidArgument n s)
  else complete (encodeFrame s.cfg s.ent n) s

/-- `LPP.TEMP` on channel `ch` (R149): `[CH, 0x67]`, `BES(2, 10, trunc)`. -/
def execTemp (ch : Byte) (s : State) : Host.Outcome State Fault Refusal := runSensor tempRow ch s

/-- `LPP.HUM` on channel `ch` (R150): `[CH, 0x68]`, `BEU(1, 2, trunc)`. -/
def execHum (ch : Byte) (s : State) : Host.Outcome State Fault Refusal := runSensor humRow ch s

/-- `LPP.ANALOG` on channel `ch` (R151): `[CH, 0x02]`, `BES(2, 100, trunc)`. -/
def execAnalog (ch : Byte) (s : State) : Host.Outcome State Fault Refusal := runSensor analogRow ch s

/-- `LPP.GPS` on channel `ch` (R152): `[CH, 0x88]`, `BES(3, 10000, trunc)` twice, `BES(3, 100, trunc)`. -/
def execGps (ch : Byte) (s : State) : Host.Outcome State Fault Refusal := runSensor gpsRow ch s

/-- `LPP.BARO` on channel `ch` (R153): `[CH, 0x73]`, `BEU(2, 10, rnd)`. -/
def execBaro (ch : Byte) (s : State) : Host.Outcome State Fault Refusal := runSensor baroRow ch s

/-- `LPP.ACCEL` on channel `ch` (R154): `[CH, 0x71]`, `BES(2, 1000, trunc)` three times. -/
def execAccel (ch : Byte) (s : State) : Host.Outcome State Fault Refusal := runSensor accelRow ch s

end Sys2Proof.Machine
end

