-- ==== Sys2Proof/Machine/Dispatch.lean ====
section
/-! DEFINITION. One arm per instruction: the engine's completion step for it (R85, R88). -/

namespace Sys2Proof.Machine

def exec (i : Instr) (s : State) : Host.Outcome State Fault Refusal :=
  match i with
  | .appStart => Sys2Proof.Machine.execAppStart s
  | .deviceQuery => Sys2Proof.Machine.execDeviceQuery s
  | .getBattery => Sys2Proof.Machine.execGetBattery s
  | .getTime => Sys2Proof.Machine.execGetTime s
  | .setTime => Sys2Proof.Machine.execSetTime s
  | .setName => Sys2Proof.Machine.execSetName s
  | .setCoords => Sys2Proof.Machine.execSetCoords s
  | .setTxPower => Sys2Proof.Machine.execSetTxPower s
  | .setRadio => Sys2Proof.Machine.execSetRadio s
  | .sendAdvertisement => Sys2Proof.Machine.execSendAdvertisement s
  | .reboot => Sys2Proof.Machine.execReboot s
  | .getContacts => Sys2Proof.Machine.execGetContacts s
  | .getMessage => Sys2Proof.Machine.execGetMessage s
  | .sendMessage => Sys2Proof.Machine.execSendMessage s
  | .sendCommand => Sys2Proof.Machine.execSendCommand s
  | .sendChannelMessage => Sys2Proof.Machine.execSendChannelMessage s
  | .sendLogin => Sys2Proof.Machine.execSendLogin s
  | .sendLogout => Sys2Proof.Machine.execSendLogout s
  | .sendStatusRequest => Sys2Proof.Machine.execSendStatusRequest s
  | .getChannel => Sys2Proof.Machine.execGetChannel s
  | .setChannel => Sys2Proof.Machine.execSetChannel s
  | .getStats => Sys2Proof.Machine.execGetStats s
  | .getSelfTelemetry => Sys2Proof.Machine.execGetSelfTelemetry s
  | .exportPrivateKey => Sys2Proof.Machine.execExportPrivateKey s
  | .signStart => Sys2Proof.Machine.execSignStart s
  | .signFinish => Sys2Proof.Machine.execSignFinish s
  | .pathDiscovery => Sys2Proof.Machine.execPathDiscovery s
  | .sendTrace => Sys2Proof.Machine.execSendTrace s
  | .lppEntry k => Sys2Proof.Machine.execLppEntry k s
  | .lppFrame n => Sys2Proof.Machine.execLppFrame n s
  | .temp ch => Sys2Proof.Machine.execTemp ch s
  | .hum ch => Sys2Proof.Machine.execHum ch s
  | .analog ch => Sys2Proof.Machine.execAnalog ch s
  | .gps ch => Sys2Proof.Machine.execGps ch s
  | .baro ch => Sys2Proof.Machine.execBaro ch s
  | .accel ch => Sys2Proof.Machine.execAccel ch s

end Sys2Proof.Machine
end

