-- ==== Sys2Proof/Machine/Transactions.lean ====
section
/-! DEFINITION. The eight host transactions (R68, R76 to R84): the drop rule, the writes, START, the reads and CLEAR. No transaction is ever refused (R91). -/

namespace Sys2Proof.Machine

/-- The drop rule (R76). -/
def dropped (t : Transaction) (s : State) : Bool :=
  match t with
  | .writeNum i _ => s.status.busy || decide (4 ≤ i.toNat)
  | .writeStr j b => s.status.busy || decide (2 ≤ j.toNat) || decide (s.cfg.strCap < b.length)
  | .writeEntry k _ _ _ _ => s.status.busy || decide (s.cfg.lppSlots ≤ k.toNat)
  | .start _ => s.status.busy
  | .readStatus | .readOutLen | .readOut _ | .clear => false

/-- A dropped transaction changes nothing except `STATUS.DROP <- 1` (R76, R165). -/
def dropTransaction (s : State) : State := { s with status := statusDropped s.status }

/-- `WRITE_NUM` when not dropped (R77). -/
def acceptWriteNum (i : Byte) (v : Word64) (s : State) : State :=
  match nregOfIndex i with
  | some r => { s with num := writeNum s.num r v }
  | none => s

/-- `WRITE_STR` when not dropped (R78). -/
def acceptWriteStr (j : Byte) (b : Bytes) (s : State) : State :=
  match sregOfIndex j with
  | some r => { s with str := writeStr s.str r b }
  | none => s

/-- The contents that `WRITE_ENTRY` gives an entry register (R79). -/
def entryOf (ew : EntryWord) (c0 c1 c2 : Word64) : Entry :=
  { ch := entryCh ew, sk := entrySk ew, c0 := c0, c1 := c1, c2 := c2 }

/-- `WRITE_ENTRY` when not dropped (R79). Any `SK` is stored. -/
def acceptWriteEntry (k : Byte) (ew : EntryWord) (c0 c1 c2 : Word64) (s : State) : State :=
  { s with ent := writeEntry s.ent k.toNat (entryOf ew c0 c1 c2) }

/-- `START` when not dropped (R80): every word is accepted. -/
def acceptStart (w : ReqWord) (s : State) : State :=
  { s with req := some w, status := statusStarted s.status, outLen := 0 }

/-- What `READ_STATUS` returns (R81). -/
def readStatus (s : State) : BitVec 32 := statusWord s.status

/-- What `READ_OUTLEN` returns (R82). -/
def readOutLen (s : State) : BitVec 16 := s.outLen

/-- What `READ_OUT a` returns (R83): `OUT[a]` below `OUT_LEN`, `0x00` elsewhere. A byte below `OUT_LEN` that no frame
has written, which no run reaches, is a free value (log entry 5). -/
def readOut (s : State) (a : BitVec 16) : Byte :=
  if a.toNat < s.outLen.toNat then
    match Memory.read s.out a.toNat with
    | some b => b
    | none => Config.unspecifiedOut a.toNat
  else 0

/-- A read transaction returns `r` to the host and has no side effect on the LFS (R41; log entry 10). -/
def reply (r : Reply) (s : State) : State := { s with replies := s.replies ++ [r] }

/-- `CLEAR` (R84). -/
def acceptClear (s : State) : State := { s with status := statusCleared s.status }

/-- The effect of a transaction that is not dropped (R77 to R84). -/
def accept (t : Transaction) (s : State) : State :=
  match t with
  | .writeNum i v => acceptWriteNum i v s
  | .writeStr j b => acceptWriteStr j b s
  | .writeEntry k ew c0 c1 c2 => acceptWriteEntry k ew c0 c1 c2 s
  | .start w => acceptStart w s
  | .readStatus => reply (.status (readStatus s)) s
  | .readOutLen => reply (.outLen (readOutLen s)) s
  | .readOut a => reply (.out (readOut s a)) s
  | .clear => acceptClear s

/-- A host transaction, one indivisible event (R40, R68, R76). -/
def transact (t : Transaction) (s : State) : State := if dropped t s then dropTransaction s else accept t s

end Sys2Proof.Machine
end

