-- ==== Sys2Proof/Machine/Engine.lean ====
section
/-! DEFINITION. The engine's completion step (R85, R88), reset as an event (R173, R174), and how one event of the total order of R44 acts on the machine. -/

namespace Sys2Proof.Machine

/-- `perform(w, N, S, E)` (R61, R88), written over the registry by kind identifier, as the spec writes it. The engine
runs `exec`, which names each row by its instruction; that the two agree is a statement about the model. -/
def perform (c : Config) (w : ReqWord) (num : NumFile) (str : StrFile) (ent : EntryFile) : Encoded :=
  if reqReservedLo w ≠ 0 ∨ reqReservedHi w ≠ 0 then .error (.raise .unknownKind 0)
  else match (reqUnit w).toNat with
    | 0 =>
      if reqArg w ≠ 0 then .error (.raise .unknownKind 0)
      else match commandRegistry[(reqKind w).toNat]? with
        | some row => encodeCommand row c num str
        | none => .error (.raise .unknownKind 0)
    | 1 =>
      if reqKind w ≠ 0 then .error (.raise .unknownKind 0)
      else if c.lppSlots ≤ (reqArg w).toNat then .error (.raise .invalidArgument (reqArg w))
      else encodeEntry c ent (reqArg w)
    | 2 =>
      if reqKind w ≠ 0 then .error (.raise .unknownKind 0)
      else if c.lppSlots < (reqArg w).toNat then .error (.raise .invalidArgument (reqArg w))
      else encodeFrame c ent (reqArg w)
    | _ => .error (.raise .unknownKind 0)

/-- The engine performs the operation in `REQ` (R24, R61, R85): a word that is no instruction completes with
`UNKNOWN_KIND`, index 0, and reads no argument register. -/
def performRequest (s : State) : Host.Outcome State Fault Refusal :=
  match decodeReq (requestWord s) with
  | .ok i => exec i s
  | .error _ => .next (failWith .unknownKind 0 s)

/-- The engine's completion step, enabled exactly when `BUSY = 1` (R85). When it is not enabled the event passes
without effect (log entry 9). -/
def engineEvent (s : State) : Host.Outcome State Fault Refusal :=
  if s.status.busy then performRequest s else .next s

/-- Reset (R173, R174): every register to its reset value, in any state. The implementation's parameters, the events
still to come and the host's record of replies are not the LFS's registers and stay (log entry 11). -/
def resetEvent (s : State) : State :=
  { State.resetWith s.cfg with events := s.events, replies := s.replies }

/-- One event of the total order (R44). -/
def react (ev : Event) (s : State) : Host.Outcome State Fault Refusal :=
  match ev with
  | .host t => .next (transact t s)
  | .engine => engineEvent s
  | .reset => .next (resetEvent s)

/-- The next event is taken from the state's order of events. When none is left the engine's step is the only event
that can still occur: a busy LFS completes (weak fairness, R85) and an idle one holds its state (R171; log entry 8). -/
def nextEvent (s : State) : Host.Outcome State Fault Refusal :=
  match s.events with
  | [] => react .engine s
  | ev :: rest => react ev { s with events := rest }

end Sys2Proof.Machine
end

