-- ==== Sys2Proof/Machine/Fetch.lean ====
section
/-! DEFINITION. How a request comes to be run: what the host owes before it (R91, R177), gathered in one placement for `State.withFetchWord` (log entry 13). -/

namespace Sys2Proof.Machine

/-- The placeholder string argument: 16 zero bytes, a length that every string field accepts. -/
def placeholderString : Bytes := zeros 16

/-- The placeholder entry: Temperature, channel 0, components `+0.0`. -/
def placeholderEntry : Entry := { ch := 0, sk := 0, c0 := 0, c1 := 0, c2 := 0 }

/-- The numeric registers, the unwritten ones written with 0. -/
def fillNum (f : NumFile) : NumFile :=
  { n0 := some (f.n0.getD 0), n1 := some (f.n1.getD 0), n2 := some (f.n2.getD 0), n3 := some (f.n3.getD 0) }

/-- The string registers, the unwritten ones written with the placeholder string. -/
def fillStr (f : StrFile) : StrFile :=
  { s0 := some (f.s0.getD placeholderString), s1 := some (f.s1.getD placeholderString) }

/-- The entry registers, the unwritten ones among the first `n` written with the placeholder entry. -/
def fillEntries (f : EntryFile) (n : Nat) : EntryFile :=
  match n with
  | 0 => f
  | k + 1 =>
    let g := fillEntries f k
    match readEntry g k with
    | some _ => g
    | none => writeEntry g k placeholderEntry

/-- The entry register `k`, written with the placeholder entry if it was unwritten. -/
def fillEntry (f : EntryFile) (k : Nat) : EntryFile :=
  match readEntry f k with
  | some _ => f
  | none => writeEntry f k placeholderEntry

/-- The arguments that the request `w` may read, each unwritten one written with its placeholder (R91(1)). -/
def fillArguments (w : ReqWord) (s : State) : State :=
  match decodeReq w with
  | .error _ => s
  | .ok (.lppEntry k) => if s.cfg.lppSlots ≤ k.toNat then s else { s with ent := fillEntry s.ent k.toNat }
  | .ok (.lppFrame n) => if s.cfg.lppSlots < n.toNat then s else { s with ent := fillEntries s.ent n.toNat }
  | .ok _ => { s with num := fillNum s.num, str := fillStr s.str }

/-- `START w` accepted, with its engine step as the next event. -/
def placeStart (w : ReqWord) (s : State) : State :=
  let t := acceptStart w s
  { t with events := .engine :: t.events }

/-- The request `w` placed so that the next step performs it. -/
def placeRequest (w : ReqWord) (s : State) : State := placeStart w (fillArguments w s)

/-- The descriptor `ew` written to `E[0]` (its component words kept, or `+0.0` if it was unwritten) and
`LPP.ENTRY E0` placed so that the next step encodes that entry. -/
def placeEntry (ew : EntryWord) (s : State) : State :=
  let en := (readEntry s.ent 0).getD placeholderEntry
  placeStart 0x00000001 { s with ent := writeEntry s.ent 0 (entryOf ew en.c0 en.c1 en.c2) }

/-- The word of a table row of `nbits` bits placed so that the next step runs it (log entries 13 and 14). -/
def placeTableWord (nbits w : Nat) (s : State) : State :=
  match tableWord nbits w with
  | some (.req rw) => placeRequest rw s
  | some (.entry ew) => placeEntry ew s
  | none => s

end Sys2Proof.Machine
end

