-- ==== Sys2Proof/Machine/Step.lean ====
section
/-! DEFINITION. One step of the LFS: one event of the total order of R44 (log entry 8). -/

namespace Sys2Proof.Machine

/-- One step: the next event of the state's total order acts on the machine (R44, R85). -/
def step (s : State) : Host.Outcome State Fault Refusal := nextEvent s

/-- The state in which the next step runs the instruction of a table row's word (log entry 13). -/
def State.withFetchWord (s : State) (nbits w : Nat) : State := placeTableWord nbits w s

end Sys2Proof.Machine
end

