-- ==== Sys2Proof/Machine/HostProgram.lean ====
section
/-! DEFINITION. Host programs: the lines of the assembly syntax as data (R72), their literals (R18), the POLL loop (R73) and the source's call forms (R74), expanded to the events of R44. -/

namespace Sys2Proof.Machine

/-- A numeric literal of a host program (R18, R72). -/
inductive NumLiteral where
  /-- `<int>`: the unsigned 64-bit word of the value, `0 <= int < 2^64` (`NumLiteral.listed`). -/
  | int (v : Nat)
  /-- `<real>`: the decimal `(-1)^neg * digits * 10^exp10`. -/
  | real (neg : Bool) (digits : Nat) (exp10 : Int)
  /-- `raw:<hex64>`: the given 64-bit pattern. -/
  | raw (w : Word64)
deriving DecidableEq, Repr

/-- The literal is one of the forms of `WN`: an integer is below `2^64` (R72). R74 does not say what a call with a larger
integer does; DESIGN CHOICE (log entry 22): neither the line nor the call has an expansion. -/
def NumLiteral.listed : NumLiteral → Bool
  | .int v => decide (v < 2 ^ 64)
  | .real _ _ _ | .raw _ => true

/-- The literal is a `<real>`, the only form of a component of `WE` (R72). -/
def NumLiteral.isReal : NumLiteral → Bool
  | .real _ _ _ => true
  | .int _ | .raw _ => false

/-- The word a numeric literal writes (R18, R72): a real is `RNE64(decimal)`. Lines and calls use it of the forms that
R72 lists only (`NumLiteral.listed`, log entry 22). -/
def literalWord : NumLiteral → Word64
  | .int v => BitVec.ofNat 64 v
  | .real neg digits exp10 => rne64 neg (digits * 10 ^ exp10.toNat) (10 ^ (-exp10).toNat)
  | .raw w => w

/-- A string literal of a host program (R72). -/
inductive StrLiteral where
  /-- `"<text>"`: the UTF-8 bytes of the text, no terminator. -/
  | text (t : List Char)
  /-- `hex:<hh hh ...>`: the listed bytes. -/
  | hex (b : Bytes)
deriving DecidableEq, Repr

/-- The UTF-8 encoding of a text, which is the host's task (R22, R91(4)). -/
def utf8 (t : List Char) : Bytes := t.flatMap (fun ch => (String.utf8EncodeChar ch).map (fun b => BitVec.ofNat 8 b.toNat))

/-- The bytes a string literal writes (R72). -/
def literalBytes : StrLiteral → Bytes
  | .text t => utf8 t
  | .hex b => b

/-- The sensor names of the `WE` line (R72). -/
inductive SensorName where
  | TEMP
  | HUM
  | ANALOG
  | GPS
  | BARO
  | ACCEL
deriving DecidableEq, Repr

/-- `SK` of a sensor name (R66, R72). -/
def sensorSk : SensorName → Byte
  | .TEMP => 0
  | .HUM => 1
  | .ANALOG => 2
  | .GPS => 3
  | .BARO => 4
  | .ACCEL => 5

/-- One line of a host program (R72). -/
inductive AsmLine where
  /-- `WN N<i>, <literal>`. -/
  | wn (i : Byte) (v : NumLiteral)
  /-- `WS S<j>, <literal>`. -/
  | ws (j : Byte) (b : StrLiteral)
  /-- `WE E<k>, ch=<c>, <SENSOR>, <real>[, <real>, <real>]`; the absent components are `+0.0`. -/
  | we (k ch : Byte) (sensor : SensorName) (c0 : NumLiteral) (c12 : Option (NumLiteral × NumLiteral))
  /-- `START CMD.<kind>`, `START LPP.ENTRY E<k>` or `START LPP.FRAME <n>`. -/
  | start (i : Instr)
  /-- `START raw:<hex32>`. -/
  | startRaw (w : ReqWord)
  /-- `RS`. -/
  | rs
  /-- `RL`. -/
  | rl
  /-- `RB <a>`. -/
  | rb (a : BitVec 16)
  /-- `CLR`. -/
  | clr
  /-- `POLL` (R73), in a run in which the status is read `busyReads` times before the completion step falls. -/
  | poll (busyReads : Nat)
deriving DecidableEq, Repr

/-- `POLL` expands to a loop `L: RS ; if STATUS.BUSY = 1 goto L` (R73). The branch is the host's; in a run in which the
loop reads a busy status `busyReads` times, then the completion step falls, these are its events. If the operation had
completed before, `busyReads` is 0 and the engine event passes without effect (log entries 9 and 18). -/
def pollEvents (busyReads : Nat) : List Event :=
  List.replicate busyReads (.host .readStatus) ++ [.engine, .host .readStatus]

/-- The events of one line; `none` for a literal of a form that R72 does not list for the line (log entry 22), and for a
`START` of a sensor row, which is no request (R72, R75). -/
def lineEvents : AsmLine → Option (List Event)
  | .wn i v => if v.listed then some [.host (.writeNum i (literalWord v))] else none
  | .ws j b => some [.host (.writeStr j (literalBytes b))]
  | .we k ch sensor c0 c12 =>
    let write (c1 c2 : Word64) : List Event := [.host (.writeEntry k (entryWord (sensorSk sensor) ch) (literalWord c0) c1 c2)]
    match c12 with
    | none => if c0.isReal then some (write 0 0) else none
    | some (c1, c2) =>
      if c0.isReal && c1.isReal && c2.isReal then some (write (literalWord c1) (literalWord c2)) else none
  | .start i =>
    match encode i with
    | .req w => some [.host (.start w)]
    | .entry _ => none
  | .startRaw w => some [.host (.start w)]
  | .rs => some [.host .readStatus]
  | .rl => some [.host .readOutLen]
  | .rb a => some [.host (.readOut a)]
  | .clr => some [.host .clear]
  | .poll n => some (pollEvents n)

/-- The events of a program, one line after another (R44, R72). -/
def programEvents : List AsmLine → Option (List Event)
  | [] => some []
  | l :: ls =>
    match lineEvents l, programEvents ls with
    | some es, some rest => some (es ++ rest)
    | _, _ => none

/-- `RB 0 .. RB (len-1)` (R74). -/
def readFrameEvents (len : Nat) : List Event := (List.range len).map (fun a => .host (.readOut (BitVec.ofNat 16 a)))

/-- The end of every call form: `START w`, `POLL`, `RL`, and the reads of the `len` bytes that `RL` announced (R74). -/
def callEvents (w : ReqWord) (busyReads len : Nat) : List Event :=
  .host (.start w) :: (pollEvents busyReads ++ (.host .readOutLen :: readFrameEvents len))

/-- An argument of a command call: a numeric or a string value (R74). -/
inductive CallArg where
  | num (v : NumLiteral)
  | str (b : StrLiteral)
deriving DecidableEq, Repr

/-- The index of a numeric register in `WRITE_NUM` (R21, R68). -/
def numIndex : NReg → Byte
  | .n0 => 0
  | .n1 => 1
  | .n2 => 2
  | .n3 => 3

/-- The index of a string register in `WRITE_STR` (R22, R68). -/
def strIndex : SReg → Byte
  | .s0 => 0
  | .s1 => 1

/-- The `WN` or `WS` that puts an argument into the register a field names (R74); `none` where the field names no
register or one of the other sort, and for an integer that `WN` has no literal for (R72; DESIGN CHOICE, log entry 22). -/
def argumentWrite (fd : FieldKind) (a : CallArg) : Option Transaction :=
  match fieldNum fd, fieldStr fd, a with
  | some r, _, .num v => if v.listed then some (.writeNum (numIndex r) (literalWord v)) else none
  | none, some r, .str b => some (.writeStr (strIndex r) (literalBytes b))
  | _, _, _ => none

/-- One `WN` or `WS` per argument, into the registers that the fields of a kind's row name, in frame order, which is the
order of the rule's "reads" line (R74, R95); `none` where the arguments are not those of the row. -/
def argumentWrites (fields : List FieldKind) (args : List CallArg) : Option (List Transaction) :=
  match fields with
  | [] => if args = [] then some [] else none
  | fd :: rest =>
    if fieldNum fd = none ∧ fieldStr fd = none then argumentWrites rest args
    else match args with
      | [] => none
      | a :: more =>
        match argumentWrite fd a, argumentWrites rest more with
        | some t, some ts => some (t :: ts)
        | _, _ => none

/-- `encodeCommand(kind, args)`: the argument writes, then the call (R74); `none` for a kind without a rule, for
arguments that are not those of its rule, and for an integer from `2^64` on (DESIGN CHOICE, log entry 22). -/
def encodeCommandCall (kind : Byte) (args : List CallArg) (busyReads len : Nat) : Option (List Event) :=
  match commandRegistry[kind.toNat]? with
  | some row => (argumentWrites row.fields args).map (fun ts => ts.map .host ++ callEvents (reqWord 0 kind 0) busyReads len)
  | none => none

/-- `encodeLppEntry(channel, kind, values)`: `E0` is written, then `LPP.ENTRY E0` (R74). -/
def encodeLppEntryCall (ch sk : Byte) (c0 c1 c2 : Word64) (busyReads len : Nat) : List Event :=
  .host (.writeEntry 0 (entryWord sk ch) c0 c1 c2) :: callEvents (reqWord 1 0 0) busyReads len

/-- The `WE E<k>` writes of a list of entries, in the caller's order, from `E<k>` on (R74). -/
def entryWrites (k : Nat) : List Entry → List Transaction
  | [] => []
  | en :: rest => .writeEntry (BitVec.ofNat 8 k) (entryWord en.sk en.ch) en.c0 en.c1 en.c2 :: entryWrites (k + 1) rest

/-- `encodeLppFrame(entries)`: the entries are written in the caller's order, then `LPP.FRAME n` (R74). It requires
`n <= LPP_SLOTS`, so there is no call for more entries. -/
def encodeLppFrameCall (c : Config) (entries : List Entry) (busyReads len : Nat) : Option (List Event) :=
  if entries.length ≤ c.lppSlots then
    some ((entryWrites 0 entries).map .host ++ callEvents (reqWord 2 0 (BitVec.ofNat 8 entries.length)) busyReads len)
  else none

/-- What a call form returns to its caller: the bytes when `ERR = 0`, and `ECODE` otherwise (R74). -/
inductive CallResult where
  | frame (b : Bytes)
  | error (code : BitVec 4)
deriving DecidableEq, Repr

/-- The bytes that reads of `OUT` returned. -/
def outBytes : List Reply → Option Bytes
  | [] => some []
  | .out b :: rest => (outBytes rest).map (b :: ·)
  | _ => none

/-- The result of a call form from what its reads returned (R73, R74): `POLL` passes over the busy status words and ends
with the first that has `BUSY = 0`; `RL` returns the length, and `RB` exactly that many bytes; `ERR` and `ECODE` are
those of the last status word. `none` where the replies are not those of a call. -/
def callResult : List Reply → Option CallResult
  | .status w :: rest =>
    if w.getLsbD 0 then callResult rest
    else match rest with
      | .outLen n :: reads =>
        match outBytes reads with
        | some bs =>
          if bs.length = n.toNat then some (if w.getLsbD 2 then .error (w.extractLsb' 4 4) else .frame bs) else none
        | none => none
      | _ => none
  | _ => none

end Sys2Proof.Machine
end

