-- ==== Sys2Proof/Safety.lean ====
section
/-! DEFINITION. The terms claims use: the invariant of the LFS (R8, R22, R26, R28, R34), what a completion leaves (R86, R87, R90, R161), and runs with the completion step's fairness (R44, R85). -/

namespace Sys2Proof.Machine

/-- The STATUS invariants of R26 that are about one state. -/
structure State.StatusInv (s : State) : Prop where
  /-- `BUSY = 1` implies `DONE = 0`, `ERR = 0`, `ECODE = 0`, `EIDX = 0` and `OUT_LEN = 0`. -/
  busyClear : s.status.busy = true →
    s.status.done = false ∧ s.status.err = false ∧ s.status.ecode = 0 ∧ s.status.eidx = 0 ∧ s.outLen = 0
  /-- `BUSY = 0` and `DONE = 0` holds exactly until the first accepted `START` after reset writes `REQ`. -/
  fresh : (s.status.busy = false ∧ s.status.done = false) ↔ s.req = none
  /-- `ERR = 1` implies `DONE = 1` and `ECODE` in 1..4. -/
  errDone : s.status.err = true → s.status.done = true ∧ 1 ≤ s.status.ecode.toNat ∧ s.status.ecode.toNat ≤ 4
  /-- `ERR = 0` implies `ECODE = 0` and `EIDX = 0`. -/
  noErr : s.status.err = false → s.status.ecode = 0 ∧ s.status.eidx = 0
  /-- `OUT_LEN` is 0 except after a successful completion (R28). -/
  outLenZero : ¬(s.status.done = true ∧ s.status.err = false) → s.outLen = 0

/-- The invariant that every step keeps. -/
structure State.Inv (s : State) : Prop where
  /-- The sizes meet R6 to R8. -/
  cfgOk : s.cfg.Ok
  /-- `SLEN[j] <= STR_CAP` (R22). -/
  strFits : ∀ r b, readStr s.str r = some b → b.length ≤ s.cfg.strCap
  /-- The entry file is in canonical form. -/
  entCanonical : keysRise none s.ent = true
  /-- Only `E0 .. E(LPP_SLOTS-1)` exist (R23). -/
  entExists : ∀ p ∈ s.ent, p.1 < s.cfg.lppSlots
  /-- `OUT` is in canonical form. -/
  outCanonical : Memory.wf s.out = true
  /-- Only `OUT[0 .. OUT_CAP)` exists (R35). -/
  outExists : ∀ p ∈ s.out, p.1 < s.cfg.outCap
  /-- Every byte below `OUT_LEN` has been written by a frame (R28, R86). -/
  outKnown : ∀ a, a < s.outLen.toNat → (Memory.read s.out a).isSome = true
  /-- The STATUS invariants (R26). -/
  statusInv : s.StatusInv

/-- `t` is `s` after a successful completion with the frame `F` (R48, R86, R90): STATUS, `OUT_LEN` and the bytes of
`OUT` below the frame's length are written, and nothing else. -/
structure CompletedWith (s : State) (F : Bytes) (t : State) : Prop where
  cfg : t.cfg = s.cfg
  num : t.num = s.num
  str : t.str = s.str
  ent : t.ent = s.ent
  req : t.req = s.req
  events : t.events = s.events
  replies : t.replies = s.replies
  status : t.status = { busy := false, done := true, err := false, drop := s.status.drop, ecode := 0, eidx := 0 }
  outLen : t.outLen.toNat = F.length
  /-- The frame stands at addresses `0 .. len(F)-1`. -/
  frame : ∀ a, a < F.length → Memory.read t.out a = F[a]?
  /-- Every other byte of `OUT` reads as before. -/
  beyond : ∀ a, F.length ≤ a → Memory.read t.out a = Memory.read s.out a

/-- `t` is `s` after an error completion with the code number `code` and the index `idx` (R87, R161): only STATUS is
written. -/
def FailedWith (s : State) (code : BitVec 4) (idx : Byte) (t : State) : Prop :=
  t = { s with status := { busy := false, done := true, err := true, drop := s.status.drop, ecode := code, eidx := idx } }

/-- The instruction completes in `s` with the frame `F`. -/
def Completes (i : Instr) (s : State) (F : Bytes) : Prop := ∃ t, exec i s = .next t ∧ CompletedWith s F t

/-- The instruction completes in `s` as an error. -/
def Fails (i : Instr) (s : State) (code : BitVec 4) (idx : Byte) : Prop := ∃ t, exec i s = .next t ∧ FailedWith s code idx t

/-- The exact value of a finite binary64 value (R15). -/
def FiniteF64.value (d : FiniteF64) : ℚ := (if d.neg then -1 else 1) * (d.m : ℚ) * (2 : ℚ) ^ d.e

/-- `q` is the scaled and converted value of the input word `w`: the input `x` and the product `p = SCALE_MUL(x, s)` are
finite and `q` is the conversion of `p` (R99, R104, R108). -/
def ScaledTo (c : Config) (w : Word64) (s : Nat) (m : Conversion) (q : Int) : Prop :=
  ∃ x p, binary64 w = .finite x ∧ binary64 (scaleMul c w x s) = .finite p ∧ q = convert c m p

/-- The input word, or its scaled product, is a NaN or an infinity (R116). -/
def NotScalable (c : Config) (w : Word64) (s : Nat) : Prop :=
  (∀ x, binary64 w ≠ .finite x) ∨ ∃ x, binary64 w = .finite x ∧ ∀ p, binary64 (scaleMul c w x s) ≠ .finite p

/-- The scaled value of `w` does not fit the range `lo .. hi`, or there is none (R99, R108). -/
def OutsideRange (c : Config) (w : Word64) (s : Nat) (m : Conversion) (lo hi : Int) : Prop :=
  NotScalable c w s ∨ ∃ q, ScaledTo c w s m q ∧ (q < lo ∨ hi < q)

/-- The scaled value of `w` is `q` and fits the range `lo .. hi` (R99, R108). -/
def InsideRange (c : Config) (w : Word64) (s : Nat) (m : Conversion) (lo hi q : Int) : Prop :=
  ScaledTo c w s m q ∧ lo ≤ q ∧ q ≤ hi

/-- The number that bytes stand for, least significant byte first (R14). -/
def littleEndianValue (bs : Bytes) : Nat := bs.foldr (fun b acc => b.toNat + 256 * acc) 0

/-- The instruction stops in the model's fault (R164). -/
def Faults (i : Instr) (s : State) : Prop := exec i s = .fault .unwrittenArgument

/-- The state a run along the events `evs` is in after `n` of them, if no fault has stopped it. -/
def runEvents (evs : Nat → Event) (s : State) : Nat → Host.Outcome State Fault Refusal
  | 0 => .next s
  | n + 1 =>
    match runEvents evs s n with
    | .next t => react (evs n) t
    | .fault r => .fault r
    | .refused r => .refused r

/-- The completion step is weakly fair along `evs` (R85): from no point on is the LFS busy for ever without an engine event. -/
def WeaklyFair (evs : Nat → Event) (s : State) : Prop :=
  ¬ ∃ n, ∀ m, n ≤ m → evs m ≠ .engine ∧ ∃ t, runEvents evs s m = .next t ∧ t.status.busy = true

/-- A safe run (R164): `k` steps are taken with no fault. -/
def SafeFor (k : Nat) (s : State) : Prop := ∃ t, Host.Core.run Sys2Proof.core k s = .next t

end Sys2Proof.Machine
end

