-- ==== Sys2Proof/Certificates/Slice0/Obligations.lean ====
section
/-! DEFINITION. The statements about the LFS model, made from the spec's numbered rules. A statement about `Completes i s F` says that `exec i s` answers a next state with the frame `F` written (R86) and nothing else changed; `Fails` says that it answers a next state in which only STATUS has changed (R87, R161). -/

open Sys2Proof Sys2Proof.Machine

/-! ## Reset, the invariant, and the step -/

/-- R33, R173, R174: reset in any state clears every written bit, `STATUS`, `OUT_LEN` and `REQ`, and no byte of a frame can be read; an operation in progress is abandoned: the completion step, which needs `BUSY = 1`, is not enabled and `DONE` is 0. -/
def Obligations.ResetClearsEveryRegister : Prop :=
  ∀ s : State, ∃ t, react .reset s = .next t ∧ statusWord t.status = 0 ∧ t.outLen = 0 ∧ t.req = none ∧
    (∀ r, readNum t.num r = none) ∧ (∀ r, readStr t.str r = none) ∧ (∀ k, readEntry t.ent k = none) ∧
    (∀ a, readOut t a = 0) ∧ t.status.busy = false ∧ t.status.done = false

/-- The state after reset meets the invariant, for every configuration that meets R6 to R8. -/
def Obligations.ResetMeetsTheInvariant : Prop :=
  State.reset.Inv ∧ ∀ c : Config, c.Ok → (State.resetWith c).Inv

/-- Every step keeps the invariant: sizes, string lengths, canonical memories, the bytes below `OUT_LEN` known, and the STATUS invariants. -/
def Obligations.EveryStepKeepsTheInvariant : Prop :=
  ∀ s t : State, s.Inv → step s = .next t → t.Inv

/-- R26, but for its last point: the STATUS invariants alone are kept by every step, in every state. -/
def Obligations.EveryStepKeepsTheStatusInvariants : Prop :=
  ∀ s t : State, s.StatusInv → step s = .next t → t.StatusInv

/-- The configuration is not state (R34): no step changes it. -/
def Obligations.NoStepChangesTheConfiguration : Prop :=
  ∀ s t : State, step s = .next t → t.cfg = s.cfg

/-- When `REQ` of a busy LFS decodes to `i` and the engine's step is the next event, or no event is left (log entry 8), the step is `exec i` at the state whose event has been taken. -/
def Obligations.StepRunsTheDecodedRequest : Prop :=
  ∀ (s : State) (w : ReqWord) (i : Instr) (rest : List Event), s.status.busy = true → s.req = some w → decodeReq w = .ok i →
    (s.events = .engine :: rest → step s = exec i { s with events := rest }) ∧ (s.events = [] → step s = exec i s)

/-- When `REQ` of a busy LFS is `LPP.ENTRY k` and the descriptor in `E[k]` decodes to the sensor instruction `i`, the engine's step is `exec i`: the ENTRY rows of the opcode table run through this request (log entry 12). -/
def Obligations.StepRunsTheDecodedEntryDescriptor : Prop :=
  ∀ (s : State) (k : Byte) (en : Entry) (i : Instr) (rest : List Event), s.status.busy = true →
    s.req = some (reqWord 1 0 k) → readEntry s.ent k.toNat = some en →
    decodeEntry (entryWord en.sk en.ch) = .ok i →
    (s.events = .engine :: rest → step s = exec i { s with events := rest }) ∧ (s.events = [] → step s = exec i s)

/-- R44, R171, in the model's order of events (log entries 8 and 9): a host transaction or reset at the head of the order takes effect by itself; an idle LFS with no event left holds its state. -/
def Obligations.StepAppliesTheNextEvent : Prop :=
  ∀ (s : State) (rest : List Event),
    (∀ t, s.events = .host t :: rest → step s = .next (transact t { s with events := rest })) ∧
    (s.events = .reset :: rest → step s = react .reset { s with events := rest }) ∧
    (s.status.busy = false → s.events = .engine :: rest → step s = .next { s with events := rest }) ∧
    (s.status.busy = false → s.events = [] → step s = .next s)

/-- R164 and R91: from a state that meets the invariant the only fault is `UnwrittenArgument`, and nothing is refused. -/
def Obligations.OnlyUnwrittenArgumentStopsTheMachine : Prop :=
  ∀ s : State, s.Inv → (∃ t, step s = .next t) ∨ step s = .fault .unwrittenArgument

/-! ## Encoding -/

/-- Decoding the word of an instruction gives it back, and each word that decodes is the word of its instruction. -/
def Obligations.DecodeAndEncodeAgree : Prop :=
  (∀ i : Instr, decode (encode i) = .ok i) ∧ ∀ (iw : InstrWord) (i : Instr), decode iw = .ok i → encode i = iw

/-- A few words written out from the tables of R56, R62, R63 and R66. -/
def Obligations.WordsOfTheTablesDecode : Prop :=
  decodeReq 0x00000000#32 = .ok .appStart ∧ decodeReq 0x00000D00#32 = .ok .sendMessage ∧
    decodeReq 0x00001B00#32 = .ok .sendTrace ∧ decodeReq 0x00070001#32 = .ok (.lppEntry 7) ∧
    decodeReq 0x00100002#32 = .ok (.lppFrame 16) ∧ decodeEntry 0x0001#16 = .ok (.temp 1) ∧
    decodeEntry 0x0304#16 = .ok (.gps 4) ∧ decodeEntry 0x0609#16 = .error .unsupportedSensorKind

/-- R61, R70: a request word is rejected exactly in the listed cases, and then the engine completes with `UNKNOWN_KIND`, index 0, whatever the argument registers hold. -/
def Obligations.RejectedRequestWordsAreExactlyThese : Prop :=
  ∀ w : ReqWord,
    let unit := w.toNat % 4
    let kind := w.toNat / 2 ^ 8 % 256
    let arg := w.toNat / 2 ^ 16 % 256
    let reserved := w.toNat / 4 % 64 ≠ 0 ∨ w.toNat / 2 ^ 24 ≠ 0
    ((∃ i, decodeReq w = .ok i) ↔
      ¬(unit = 3 ∨ reserved ∨ (kind ≠ 0 ∧ (unit = 1 ∨ unit = 2)) ∨ (arg ≠ 0 ∧ unit = 0) ∨ (28 ≤ kind ∧ unit = 0))) ∧
    ((¬∃ i, decodeReq w = .ok i) → ∀ s : State, s.status.busy = true → s.req = some w →
      ∃ t, react .engine s = .next t ∧ FailedWith s 1 0 t)

/-- R60: an entry index that is not below `LPP_SLOTS`, or a frame count above it, completes with `INVALID_ARGUMENT` and that index, reading no register. -/
def Obligations.LppIndexOutOfRangeIsInvalidArgument : Prop :=
  (∀ (s : State) (k : Byte), s.cfg.lppSlots ≤ k.toNat → Fails (.lppEntry k) s 2 k) ∧
  (∀ (s : State) (n : Byte), s.cfg.lppSlots < n.toNat → Fails (.lppFrame n) s 2 n)

/-- R65: no two command rows share both opcode and sub-opcode, and every command frame begins with its row's opcode. -/
def Obligations.OpcodesTellTheRowsApart : Prop :=
  commandRegistry.length = 28 ∧ commandRegistry.Pairwise (fun a b => (a.opcode, a.sub) ≠ (b.opcode, b.sub)) ∧
    ∀ row c num str F, encodeCommand row c num str = .ok F → F[0]? = some row.opcode

/-! ## Host transactions -/

/-- R76: the drop table. A dropped transaction changes nothing except `STATUS.DROP`. -/
def Obligations.DroppedTransactionSetsOnlyDrop : Prop :=
  ∀ s : State,
    let droppedState : State := { s with status := { s.status with drop := true } }
    (∀ i v, transact (.writeNum i v) s = droppedState ∨ (s.status.busy = false ∧ i.toNat < 4)) ∧
    (∀ i v, s.status.busy = true ∨ 4 ≤ i.toNat → transact (.writeNum i v) s = droppedState) ∧
    (∀ j b, s.status.busy = true ∨ 2 ≤ j.toNat ∨ s.cfg.strCap < b.length → transact (.writeStr j b) s = droppedState) ∧
    (∀ k ew c0 c1 c2, s.status.busy = true ∨ s.cfg.lppSlots ≤ k.toNat →
      transact (.writeEntry k ew c0 c1 c2) s = droppedState) ∧
    (∀ w, s.status.busy = true → transact (.start w) s = droppedState) ∧
    (∀ a, (transact .readStatus s).status = s.status ∧ (transact .readOutLen s).status = s.status ∧
      (transact (.readOut a) s).status = s.status) ∧
    (transact .clear s).status.drop = false

/-- R77: an accepted `WRITE_NUM` writes its register and its written bit, and nothing else; an index from 4 on is dropped. -/
def Obligations.WriteNumWritesItsRegister : Prop :=
  ∀ (s : State) (v : Word64), s.status.busy = false →
    (∀ i : Byte, 4 ≤ i.toNat → transact (.writeNum i v) s = { s with status := { s.status with drop := true } }) ∧
    transact (.writeNum 0 v) s = { s with num := { s.num with n0 := some v } } ∧
    transact (.writeNum 1 v) s = { s with num := { s.num with n1 := some v } } ∧
    transact (.writeNum 2 v) s = { s with num := { s.num with n2 := some v } } ∧
    transact (.writeNum 3 v) s = { s with num := { s.num with n3 := some v } }

/-- R78: an accepted `WRITE_STR` writes the bytes and the length of its register together, and nothing else, the empty string among them; a string longer than `STR_CAP` is dropped and the old contents and written bit stay. -/
def Obligations.WriteStrWritesItsRegister : Prop :=
  ∀ (s : State) (b : Bytes), s.status.busy = false →
    (b.length ≤ s.cfg.strCap →
      transact (.writeStr 0 b) s = { s with str := { s.str with s0 := some b } } ∧
      transact (.writeStr 1 b) s = { s with str := { s.str with s1 := some b } }) ∧
    (s.cfg.strCap < b.length →
      ∀ j, transact (.writeStr j b) s = { s with status := { s.status with drop := true } })

/-- R79: an accepted `WRITE_ENTRY` writes all five fields of its register from `ew` and the component words, and nothing else, at every `SK`; an index from `LPP_SLOTS` on is dropped. -/
def Obligations.WriteEntryWritesItsRegister : Prop :=
  ∀ (s : State) (k : Byte) (ew : EntryWord) (c0 c1 c2 : Word64), s.status.busy = false →
    (k.toNat < s.cfg.lppSlots →
      ∃ f, transact (.writeEntry k ew c0 c1 c2) s = { s with ent := f } ∧
        (∀ j, j ≠ k.toNat → readEntry f j = readEntry s.ent j) ∧
        ∃ en, readEntry f k.toNat = some en ∧ en.ch.toNat = ew.toNat % 256 ∧ en.sk.toNat = ew.toNat / 256 ∧
          en.c0 = c0 ∧ en.c1 = c1 ∧ en.c2 = c2) ∧
    (s.cfg.lppSlots ≤ k.toNat →
      transact (.writeEntry k ew c0 c1 c2) s = { s with status := { s.status with drop := true } })

/-- R80: an accepted `START` takes every word, and writes `REQ`, `STATUS` but for `DROP`, and `OUT_LEN`, after an error completion as well; a `START` while busy is dropped and the operation continues with its own `REQ`. -/
def Obligations.StartBeginsTheOperation : Prop :=
  ∀ (s : State) (w : ReqWord),
    (s.status.busy = false →
      transact (.start w) s =
        { s with
          req := some w
          status := { busy := true, done := false, err := false, drop := s.status.drop, ecode := 0, eidx := 0 }
          outLen := 0 }) ∧
    (s.status.busy = true → transact (.start w) s = { s with status := { s.status with drop := true } })

/-- R25, R81, in the model's record of replies (log entry 10): `READ_STATUS` returns the status bits at their places, bits 31:16 zero, and has no side effect. -/
def Obligations.ReadStatusReturnsTheStatusWord : Prop :=
  ∀ s : State, ∃ w : BitVec 32, transact .readStatus s = { s with replies := s.replies ++ [.status w] } ∧
    w.toNat = s.status.busy.toNat + 2 * s.status.done.toNat + 4 * s.status.err.toNat + 8 * s.status.drop.toNat +
      16 * s.status.ecode.toNat + 256 * s.status.eidx.toNat

/-- R82, in the model's record of replies (log entry 10): `READ_OUTLEN` returns `OUT_LEN`, which is 0 while busy, after an error and after reset, and has no side effect. -/
def Obligations.ReadOutLenReturnsTheFrameLength : Prop :=
  (∀ s : State, transact .readOutLen s = { s with replies := s.replies ++ [.outLen s.outLen] }) ∧
  (∀ s : State, s.StatusInv → s.status.busy = true ∨ s.status.err = true ∨ s.req = none → s.outLen = 0)

/-- R83, R181, in the model's record of replies (log entry 10): `READ_OUT a` returns `OUT[a]` below `OUT_LEN` and `0x00` elsewhere, so also at every index beyond `OUT_CAP` and at every index while an operation runs, and has no side effect. -/
def Obligations.ReadOutReturnsTheFrameByte : Prop :=
  ∀ (s : State) (a : BitVec 16), ∃ b, transact (.readOut a) s = { s with replies := s.replies ++ [.out b] } ∧
    (∀ x, a.toNat < s.outLen.toNat → Memory.read s.out a.toNat = some x → b = x) ∧
    (s.outLen.toNat ≤ a.toNat → b = 0) ∧ (s.Inv → s.cfg.outCap ≤ a.toNat → b = 0) ∧
    (s.StatusInv → s.status.busy = true → b = 0)

/-- R84: `CLEAR` clears `DROP` and nothing else, in every state. -/
def Obligations.ClearClearsOnlyDrop : Prop :=
  ∀ s : State, transact .clear s = { s with status := { s.status with drop := false } }

/-- R45: from the completion on, until the next accepted `START`, every host transaction leaves what the reads return. -/
def Obligations.ResultsStayUntilTheNextStart : Prop :=
  ∀ (s : State) (t : Transaction), s.status.done = true → (∀ w, t ≠ .start w) →
    (transact t s).status.done = true ∧ (transact t s).status.err = s.status.err ∧
      (transact t s).status.ecode = s.status.ecode ∧ (transact t s).status.eidx = s.status.eidx ∧
      (transact t s).status.busy = s.status.busy ∧ readOutLen (transact t s) = readOutLen s ∧
      ∀ a, readOut (transact t s) a = readOut s a

/-- R179: while an operation runs, writes and `START` are dropped and `DROP` records it; whatever transactions are issued, they never reach its arguments or its request. -/
def Obligations.RunningOperationKeepsItsArguments : Prop :=
  ∀ (s : State) (ts : List Transaction), s.status.busy = true →
    (∀ i v j b k ew c0 c1 c2 w, ∀ t ∈ [.writeNum i v, .writeStr j b, .writeEntry k ew c0 c1 c2, .start w],
      transact t s = { s with status := { s.status with drop := true } }) ∧
    let u := ts.foldl (fun a t => transact t a) s
    u.status.busy = true ∧ perform u.cfg = perform s.cfg ∧ u.req = s.req ∧ u.num = s.num ∧ u.str = s.str ∧ u.ent = s.ent

/-- R183: a host write races the completion: after it the write is accepted, before it the write is dropped and the operation's result is the same but for `DROP`. -/
def Obligations.WriteRacingTheCompletionHasTwoOutcomes : Prop :=
  ∀ (s t : State) (x : Transaction), s.status.busy = true → react .engine s = .next t → x.wellFormed s.cfg = true →
    (∃ i v, x = .writeNum i v) ∨ (∃ j b, x = .writeStr j b) ∨ (∃ k ew c0 c1 c2, x = .writeEntry k ew c0 c1 c2) →
    transact x t = accept x t ∧ (transact x t).status.drop = s.status.drop ∧
    react .engine (transact x s) = .next { t with status := { t.status with drop := true } }

/-! ## The engine -/

/-- R85 to R88: the completion step of a busy LFS does what `perform` of the request and the argument registers gives: a successful completion (R86), an error completion (R87), or the fault. -/
def Obligations.CompletionStepPerformsTheRequest : Prop :=
  ∀ (s : State) (w : ReqWord), s.cfg.Ok → s.status.busy = true → s.req = some w →
    (∀ F, perform s.cfg w s.num s.str s.ent = .ok F → F.length ≤ s.cfg.outCap →
      ∃ t, react .engine s = .next t ∧ CompletedWith s F t) ∧
    (∀ c i, perform s.cfg w s.num s.str s.ent = .error (.raise c i) →
      ∃ t, react .engine s = .next t ∧ FailedWith s c.number i t) ∧
    (perform s.cfg w s.num s.str s.ent = .error .unwritten → react .engine s = .fault .unwrittenArgument)

/-- R8: every frame an operation can produce fits the output buffer. -/
def Obligations.EveryFrameFitsTheOutputBuffer : Prop :=
  ∀ (s : State) (w : ReqWord) (F : Bytes), s.cfg.Ok → (∀ r b, readStr s.str r = some b → b.length ≤ s.cfg.strCap) →
    perform s.cfg w s.num s.str s.ent = .ok F → F.length ≤ s.cfg.outCap

/-- R90: an operation changes no argument register and no written bit, whether an instruction runs or its word is rejected; nor does it change `REQ`, the configuration or `DROP`, and it ends with `BUSY = 0` and `DONE = 1`. -/
def Obligations.OperationsChangeNoArgumentRegister : Prop :=
  ∀ s t : State, (∃ i, exec i s = .next t) ∨ (s.status.busy = true ∧ react .engine s = .next t) →
    t.num = s.num ∧ t.str = s.str ∧ t.ent = s.ent ∧ t.req = s.req ∧ t.cfg = s.cfg ∧ t.events = s.events ∧
      t.replies = s.replies ∧ t.status.drop = s.status.drop ∧ t.status.busy = false ∧ t.status.done = true

/-- R89: the same request on unchanged registers yields the same result and byte-identical output. -/
def Obligations.RepeatedRequestGivesTheSameFrame : Prop :=
  ∀ (s t u : State) (w : ReqWord), s.cfg.Ok → s.status.busy = false →
    react .engine (transact (.start w) s) = .next t → react .engine (transact (.start w) t) = .next u →
    u.status = t.status ∧ readOutLen u = readOutLen t ∧ ∀ a, readOut u a = readOut t a

/-- R106, R160: a command row faults exactly when a register it names is unwritten, even where an earlier field is in error. -/
def Obligations.UnwrittenRegisterComesBeforeFieldErrors : Prop :=
  ∀ (row : CmdRow) (s : State), row ∈ commandRegistry →
    (runCommand row s = .fault .unwrittenArgument ↔
      ∃ fd ∈ row.fields, (∃ r, fieldNum fd = some r ∧ readNum s.num r = none) ∨ (∃ r, fieldStr fd = some r ∧ readStr s.str r = none))

/-- R118: a register that a row does not name is never read: writing it changes no frame, error or fault of the row, and the component words that a sensor row does not use change no entry. -/
def Obligations.UnnamedRegistersAreNeverRead : Prop :=
  (∀ (row : CmdRow) (c : Config) (num : NumFile) (str : StrFile) (r : NReg) (v : Word64),
    (∀ fd ∈ row.fields, fieldNum fd ≠ some r) → encodeCommand row c (writeNum num r v) str = encodeCommand row c num str) ∧
  (∀ (row : CmdRow) (c : Config) (num : NumFile) (str : StrFile) (r : SReg) (b : Bytes),
    (∀ fd ∈ row.fields, fieldStr fd ≠ some r) → encodeCommand row c num (writeStr str r b) = encodeCommand row c num str) ∧
  (∀ (c : Config) (en : Entry) (e : Byte) (x y : Word64), en.sk ∈ [0, 1, 2, 4] →
    entryBytes c { en with c1 := x, c2 := y } e = entryBytes c en e)

/-- R85, R185, with the model's runs along events (log entry 8): in every weakly fair run without reset that does not fault, a busy LFS completes its operation. -/
def Obligations.WeaklyFairRunsComplete : Prop :=
  ∀ (evs : Nat → Event) (s t : State) (n : Nat), WeaklyFair evs s → (∀ m, evs m ≠ .reset) →
    (∀ m, ∃ u, runEvents evs s m = .next u) → runEvents evs s n = .next t → t.status.busy = true →
    ∃ m u, n < m ∧ runEvents evs s m = .next u ∧ u.status.busy = false ∧ u.status.done = true

/-- R73, with the model's events and replies (log entries 8, 10, 18): `POLL` ends with a status word that has `BUSY = 0`, after any number of busy reads. -/
def Obligations.PollEndsWithTheOperationComplete : Prop :=
  ∀ (s t : State) (n : Nat), s.status.busy = true → s.events = pollEvents n →
    Host.Core.run Sys2Proof.core (n + 2) s = .next t →
    t.status.busy = false ∧ t.status.done = true ∧ t.events = [] ∧
      t.replies = s.replies ++ List.replicate n (.status (statusWord s.status)) ++ [.status (statusWord t.status)]

/-- R74, with the model's events and replies (log entries 8, 10, 18): a call form writes its arguments, then issues `START`, `POLL`, `RL` and the reads; the host is given the busy status words, the last one, the length and the bytes, and the call returns the frame's bytes when `ERR = 0` and `ECODE` otherwise. A command's call writes exactly the registers that the kind's row names; a frame call needs `n <= LPP_SLOTS`. -/
def Obligations.CallFormReturnsTheFrame : Prop :=
  (∀ (s : State) (ws : List Transaction) (w : ReqWord) (n : Nat), s.Inv → s.status.busy = false →
    (∀ x ∈ ws, ((∃ i v, x = .writeNum i v) ∨ (∃ j b, x = .writeStr j b) ∨ ∃ k ew c0 c1 c2, x = .writeEntry k ew c0 c1 c2) ∧
      x.wellFormed s.cfg = true) →
    let u := ws.foldl (fun a x => transact x a) s
    let drop := 8 * s.status.drop.toNat
    (∀ F, perform s.cfg w u.num u.str u.ent = .ok F → s.events = ws.map .host ++ callEvents w n F.length →
      ∃ t new, Host.Core.run Sys2Proof.core (ws.length + n + F.length + 4) s = .next t ∧ t.replies = s.replies ++ new ∧
        new = List.replicate n (.status (BitVec.ofNat 32 (1 + drop))) ++
          [.status (BitVec.ofNat 32 (2 + drop)), .outLen (BitVec.ofNat 16 F.length)] ++ F.map .out ∧
        callResult new = some (.frame F)) ∧
    (∀ c x, perform s.cfg w u.num u.str u.ent = .error (.raise c x) → s.events = ws.map .host ++ callEvents w n 0 →
      ∃ t new, Host.Core.run Sys2Proof.core (ws.length + n + 4) s = .next t ∧ t.replies = s.replies ++ new ∧
        callResult new = some (.error c.number))) ∧
  (∀ (kind : Byte) (row : CmdRow) (args : List CallArg) (ws : List Transaction) (s : State) (n len : Nat),
    commandRegistry[kind.toNat]? = some row → argumentWrites row.fields args = some ws →
    encodeCommandCall kind args n len = some (ws.map .host ++ callEvents (reqWord 0 kind 0) n len) ∧
    (s.status.busy = false → (∀ x ∈ ws, x.wellFormed s.cfg = true) →
      let u := ws.foldl (fun a x => transact x a) s
      rowWritten u.num u.str row = true ∧
        (∀ r, (∀ fd ∈ row.fields, fieldNum fd ≠ some r) → readNum u.num r = readNum s.num r) ∧
        (∀ r, (∀ fd ∈ row.fields, fieldStr fd ≠ some r) → readStr u.str r = readStr s.str r))) ∧
  (∀ (c : Config) (entries : List Entry) (n len : Nat),
    (encodeLppFrameCall c entries n len).isSome = true ↔ entries.length ≤ c.lppSlots)

/-! ## Bytes and scaling arithmetic -/

/-- R14: byte `i` of `LE(v, n)` is `(v mod 2^(8n)) div 2^(8i) mod 256`, and `BE(v, n)` is the same bytes in the other order. -/
def Obligations.ByteOrdersAreMirrorImages : Prop :=
  ∀ (v : Int) (n : Nat), (le v n).length = n ∧ be v n = (le v n).reverse ∧
    ∀ i, i < n → ∃ b : Byte, (le v n)[i]? = some b ∧ (b.toNat : Int) = v % 2 ^ (8 * n) / 2 ^ (8 * i) % 256

/-- R13: the emitted bytes are the pattern `v mod 2^(8n)`, so two integers that fit a field, signed or unsigned, are told apart by their bytes. -/
def Obligations.FieldBytesDetermineTheInteger : Prop :=
  ∀ (v u : Int) (n : Nat), (littleEndianValue (le v n) : Int) = v % 2 ^ (8 * n) ∧
    ((fitsSigned n v = true ∧ fitsSigned n u = true) ∨ (fitsUnsigned n v = true ∧ fitsUnsigned n u = true) →
      0 < n → le v n = le u n → v = u)

/-- R15: what a 64-bit word stands for as binary64. -/
def Obligations.Binary64WordsDecode : Prop :=
  ∀ w : Word64,
    let sign : Bool := decide (w.toNat / 2 ^ 63 = 1)
    let e : Nat := w.toNat / 2 ^ 52 % 2048
    let f : Nat := w.toNat % 2 ^ 52
    (e = 0x7FF → f ≠ 0 → binary64 w = .nan) ∧ (e = 0x7FF → f = 0 → binary64 w = .inf sign) ∧
    (1 ≤ e → e ≤ 0x7FE → ∃ d, binary64 w = .finite d ∧
      d.value = (if sign then -1 else 1) * ((2 : ℚ) ^ 52 + f) * 2 ^ ((e : Int) - 1075)) ∧
    (e = 0 → ∃ d, binary64 w = .finite d ∧ d.value = (if sign then -1 else 1) * (f : ℚ) * 2 ^ (-1074 : Int))

/-- R16: `trunc` is the nearest integer in the direction of zero; `rnd` is a nearest integer, and a tie goes away from zero or to the even neighbour, as `PRESSURE_TIE` says. -/
def Obligations.IntegerConversionsRoundAsStated : Prop :=
  ∀ p : FiniteF64,
    (|(trunc p : ℚ)| ≤ |p.value| ∧ |p.value| < |(trunc p : ℚ)| + 1 ∧ (0 ≤ p.value → 0 ≤ trunc p) ∧
      (p.value ≤ 0 → trunc p ≤ 0)) ∧
    (∀ tie, |(rnd tie p : ℚ) - p.value| ≤ 1 / 2) ∧
    (|(rnd .away p : ℚ) - p.value| = 1 / 2 → |p.value| < |(rnd .away p : ℚ)|) ∧
    (|(rnd .even p : ℚ) - p.value| = 1 / 2 → rnd .even p % 2 = 0)

/-- R9, R104: the default product is the exact product rounded once: finite below the overflow threshold, no finite binary64 value is nearer to it, and of two equally near the one with an even fraction is taken; from the threshold on it is an infinity. -/
def Obligations.DefaultProductIsCorrectlyRounded : Prop :=
  ∀ (x : FiniteF64) (s : Nat),
    let r : ℚ := x.value * s
    (|r| < (2 ^ 54 - 1) * 2 ^ 970 → ∃ p, binary64 (rneScale x s) = .finite p ∧
      ∀ (w : Word64) (y : FiniteF64), binary64 w = .finite y →
        |p.value - r| ≤ |y.value - r| ∧
        (|p.value - r| = |y.value - r| → y.value ≠ p.value → (rneScale x s).toNat % 2 = 0)) ∧
    ((2 ^ 54 - 1) * 2 ^ 970 ≤ |r| → binary64 (rneScale x s) = .inf x.neg)

/-- R117: with the default product, a zero or subnormal input of a scaled field gives 0, under either conversion and tie rule, at every scale of the registry. -/
def Obligations.ZeroAndSubnormalInputsGiveZero : Prop :=
  ∀ (c : Config) (w : Word64) (s : Nat) (m : Conversion), c.scaleMul = .rne64 → w.toNat / 2 ^ 52 % 2048 = 0 →
    s ∈ [2, 10, 100, 1000, 10000, 1000000] → ScaledTo c w s m 0

/-- R18, R72: a real literal of a host program is `RNE64` of its decimal: finite below the overflow threshold, no finite binary64 value is nearer to it, and of two equally near the one with an even fraction is taken; from the threshold on it is an infinity; the sign is the decimal's, also of a zero. `WN` writes that word: `37.7749` is `0x4042E32FEC56D5D0`. -/
def Obligations.RealLiteralIsRoundedToBinary64 : Prop :=
  (∀ (neg : Bool) (digits : Nat) (exp10 : Int),
    let r : ℚ := (if neg then -1 else 1) * (digits : ℚ) * (10 : ℚ) ^ exp10
    let w := literalWord (.real neg digits exp10)
    (∀ i, lineEvents (.wn i (.real neg digits exp10)) = some [.host (.writeNum i w)]) ∧
    (|r| < (2 ^ 54 - 1) * 2 ^ 970 → ∃ p, binary64 w = .finite p ∧ p.neg = neg ∧
      ∀ (v : Word64) (y : FiniteF64), binary64 v = .finite y →
        |p.value - r| ≤ |y.value - r| ∧
        (|p.value - r| = |y.value - r| → y.value ≠ p.value → w.toNat % 2 = 0)) ∧
    ((2 ^ 54 - 1) * 2 ^ 970 ≤ |r| → binary64 w = .inf neg)) ∧
  literalWord (.real false 377749 (-4)) = 0x4042E32FEC56D5D0

/-! ## Commands -/

/-- R120 to R122, R129 to R131, R141 to R144: the commands that read nothing complete in every state with their constant frame. -/
def Obligations.CommandsWithoutArgumentsComplete : Prop :=
  decodeReq 0x00000100#32 = .ok .deviceQuery ∧ decodeReq 0x00000200#32 = .ok .getBattery ∧
  decodeReq 0x00000300#32 = .ok .getTime ∧ decodeReq 0x00000A00#32 = .ok .reboot ∧
  decodeReq 0x00000B00#32 = .ok .getContacts ∧ decodeReq 0x00000C00#32 = .ok .getMessage ∧
  decodeReq 0x00001600#32 = .ok .getSelfTelemetry ∧ decodeReq 0x00001700#32 = .ok .exportPrivateKey ∧
  decodeReq 0x00001800#32 = .ok .signStart ∧ decodeReq 0x00001900#32 = .ok .signFinish ∧
  ∀ s : State, s.cfg.Ok →
    Completes .deviceQuery s [0x16, 0x03] ∧ Completes .getBattery s [0x14] ∧ Completes .getTime s [0x05] ∧
    Completes .reboot s [0x13, 0x72, 0x65, 0x62, 0x6F, 0x6F, 0x74] ∧ Completes .getContacts s [0x04] ∧
    Completes .getMessage s [0x0A] ∧ Completes .getSelfTelemetry s [0x27, 0x00, 0x00, 0x00] ∧
    Completes .exportPrivateKey s [0x17] ∧ Completes .signStart s [0x21] ∧ Completes .signFinish s [0x23]

/-- R119, R124: `appStart` truncates the client id to 5 bytes or pads it with zeros; `setName` emits the name as it is, with no padding and no terminator; neither can fail. -/
def Obligations.AppStartAndSetNameEmitTheirText : Prop :=
  decodeReq 0x00000000#32 = .ok .appStart ∧ decodeReq 0x00000500#32 = .ok .setName ∧ ∀ s : State, s.cfg.Ok →
    (∀ b, s.str.s0 = some b →
      Completes .appStart s ([0x01, 0x03, 0x20, 0x20, 0x20, 0x20, 0x20, 0x20] ++ b.take 5 ++ zeros (5 - (b.take 5).length)) ∧
      ([0x01, 0x03, 0x20, 0x20, 0x20, 0x20, 0x20, 0x20] ++ b.take 5 ++ zeros (5 - (b.take 5).length)).length = 13 ∧
      (b.length ≤ s.cfg.strCap → Completes .setName s ([0x08] ++ b))) ∧
    (s.str.s0 = none → Faults .appStart s ∧ Faults .setName s)

/-- R123, R126: `setTime` and `setTxPower` emit their 32-bit argument little-endian, and reject a wider one. -/
def Obligations.SetTimeAndSetTxPowerEmitFourBytes : Prop :=
  decodeReq 0x00000400#32 = .ok .setTime ∧ decodeReq 0x00000700#32 = .ok .setTxPower ∧ ∀ s : State, s.cfg.Ok →
    (∀ v, s.num.n0 = some v → v.toNat < 2 ^ 32 →
      Completes .setTime s ([0x06] ++ le v.toNat 4) ∧ Completes .setTxPower s ([0x0C] ++ le v.toNat 4)) ∧
    (∀ v, s.num.n0 = some v → 2 ^ 32 ≤ v.toNat → Fails .setTime s 2 0 ∧ Fails .setTxPower s 2 0) ∧
    (s.num.n0 = none → Faults .setTime s ∧ Faults .setTxPower s)

/-- R125: `setCoords` emits latitude and longitude, scaled by 1000000 and truncated, as signed 4-byte little-endian integers, and four zero bytes; the first coordinate outside the width, or not finite, is reported. -/
def Obligations.SetCoordsEmitsScaledCoordinates : Prop :=
  decodeReq 0x00000600#32 = .ok .setCoords ∧ ∀ s : State, s.cfg.Ok →
    (∀ x y q0 q1, s.num.n0 = some x → s.num.n1 = some y →
      InsideRange s.cfg x 1000000 .trunc (-2 ^ 31) (2 ^ 31 - 1) q0 → InsideRange s.cfg y 1000000 .trunc (-2 ^ 31) (2 ^ 31 - 1) q1 →
      Completes .setCoords s ([0x0E] ++ le q0 4 ++ le q1 4 ++ [0, 0, 0, 0])) ∧
    (∀ x y, s.num.n0 = some x → s.num.n1 = some y → OutsideRange s.cfg x 1000000 .trunc (-2 ^ 31) (2 ^ 31 - 1) →
      Fails .setCoords s 2 0) ∧
    (∀ x y q0, s.num.n0 = some x → s.num.n1 = some y →
      InsideRange s.cfg x 1000000 .trunc (-2 ^ 31) (2 ^ 31 - 1) q0 → OutsideRange s.cfg y 1000000 .trunc (-2 ^ 31) (2 ^ 31 - 1) →
      Fails .setCoords s 2 1) ∧
    (s.num.n0 = none ∨ s.num.n1 = none → Faults .setCoords s)

/-- R127: `setRadio` emits frequency and bandwidth, scaled by 1000 and truncated, as unsigned 4-byte little-endian integers, then spreading factor and coding rate; the first failing field is reported. -/
def Obligations.SetRadioEmitsItsFourFields : Prop :=
  decodeReq 0x00000800#32 = .ok .setRadio ∧ ∀ s : State, s.cfg.Ok →
    (∀ x y sf cr, s.num.n0 = some x → s.num.n1 = some y → s.num.n2 = some sf → s.num.n3 = some cr →
      (∀ q0 q1, InsideRange s.cfg x 1000 .trunc 0 (2 ^ 32 - 1) q0 → InsideRange s.cfg y 1000 .trunc 0 (2 ^ 32 - 1) q1 →
        (sf.toNat < 256 → cr.toNat < 256 →
          Completes .setRadio s ([0x0B] ++ le q0 4 ++ le q1 4 ++ [BitVec.ofNat 8 sf.toNat, BitVec.ofNat 8 cr.toNat])) ∧
        (256 ≤ sf.toNat → Fails .setRadio s 2 2) ∧
        (sf.toNat < 256 → 256 ≤ cr.toNat → Fails .setRadio s 2 3)) ∧
      (OutsideRange s.cfg x 1000 .trunc 0 (2 ^ 32 - 1) → Fails .setRadio s 2 0) ∧
      (∀ q0, InsideRange s.cfg x 1000 .trunc 0 (2 ^ 32 - 1) q0 → OutsideRange s.cfg y 1000 .trunc 0 (2 ^ 32 - 1) →
        Fails .setRadio s 2 1)) ∧
    (s.num.n0 = none ∨ s.num.n1 = none ∨ s.num.n2 = none ∨ s.num.n3 = none → Faults .setRadio s)

/-- R132: `sendMessage` emits attempt, timestamp, the first 6 bytes of the destination and the message; the first failing field is reported. -/
def Obligations.SendMessageEmitsItsFields : Prop :=
  decodeReq 0x00000D00#32 = .ok .sendMessage ∧ ∀ s : State, s.cfg.Ok →
    (∀ att ts dst msg, s.num.n0 = some att → s.num.n1 = some ts → s.str.s0 = some dst → s.str.s1 = some msg →
      (att.toNat < 2 ^ 8 → ts.toNat < 2 ^ 32 → 6 ≤ dst.length → dst.length ≤ 32 → msg.length ≤ s.cfg.strCap →
        Completes .sendMessage s ([0x02, 0x00, BitVec.ofNat 8 att.toNat] ++ le ts.toNat 4 ++ dst.take 6 ++ msg)) ∧
      (2 ^ 8 ≤ att.toNat → Fails .sendMessage s 2 0) ∧
      (att.toNat < 2 ^ 8 → 2 ^ 32 ≤ ts.toNat → Fails .sendMessage s 2 1) ∧
      (att.toNat < 2 ^ 8 → ts.toNat < 2 ^ 32 → dst.length < 6 ∨ 32 < dst.length → Fails .sendMessage s 2 2)) ∧
    (s.num.n0 = none ∨ s.num.n1 = none ∨ s.str.s0 = none ∨ s.str.s1 = none → Faults .sendMessage s)

/-- R133: `sendCommand` emits a zero byte, timestamp, the first 6 bytes of the destination and the command text; the first failing field is reported by its position, the reserved byte counted. -/
def Obligations.SendCommandEmitsItsFields : Prop :=
  decodeReq 0x00000E00#32 = .ok .sendCommand ∧ ∀ s : State, s.cfg.Ok →
    (∀ ts dst txt, s.num.n0 = some ts → s.str.s0 = some dst → s.str.s1 = some txt →
      (ts.toNat < 2 ^ 32 → 6 ≤ dst.length → dst.length ≤ 32 → txt.length ≤ s.cfg.strCap →
        Completes .sendCommand s ([0x02, 0x01, 0x00] ++ le ts.toNat 4 ++ dst.take 6 ++ txt)) ∧
      (2 ^ 32 ≤ ts.toNat → Fails .sendCommand s 2 1) ∧
      (ts.toNat < 2 ^ 32 → dst.length < 6 ∨ 32 < dst.length → Fails .sendCommand s 2 2)) ∧
    (s.num.n0 = none ∨ s.str.s0 = none ∨ s.str.s1 = none → Faults .sendCommand s)

/-- R134: `sendChannelMessage` emits channel, timestamp and message; the first failing field is reported. -/
def Obligations.SendChannelMessageEmitsItsFields : Prop :=
  decodeReq 0x00000F00#32 = .ok .sendChannelMessage ∧ ∀ s : State, s.cfg.Ok →
    (∀ ch ts msg, s.num.n0 = some ch → s.num.n1 = some ts → s.str.s0 = some msg →
      (ch.toNat < 2 ^ 8 → ts.toNat < 2 ^ 32 → msg.length ≤ s.cfg.strCap →
        Completes .sendChannelMessage s ([0x03, 0x00, BitVec.ofNat 8 ch.toNat] ++ le ts.toNat 4 ++ msg)) ∧
      (2 ^ 8 ≤ ch.toNat → Fails .sendChannelMessage s 2 0) ∧
      (ch.toNat < 2 ^ 8 → 2 ^ 32 ≤ ts.toNat → Fails .sendChannelMessage s 2 1)) ∧
    (s.num.n0 = none ∨ s.num.n1 = none ∨ s.str.s0 = none → Faults .sendChannelMessage s)

/-- R135 to R137, R145: `sendLogin`, `sendLogout`, `sendStatusRequest` and `pathDiscovery` emit the destination zero-padded to 32 bytes, `sendLogin` then the password; a longer destination is rejected. -/
def Obligations.DestinationCommandsPadTo32Bytes : Prop :=
  decodeReq 0x00001000#32 = .ok .sendLogin ∧ decodeReq 0x00001100#32 = .ok .sendLogout ∧
  decodeReq 0x00001200#32 = .ok .sendStatusRequest ∧ decodeReq 0x00001A00#32 = .ok .pathDiscovery ∧ ∀ s : State, s.cfg.Ok →
    (∀ dst, s.str.s0 = some dst → dst.length ≤ 32 →
      (∀ pw, s.str.s1 = some pw → pw.length ≤ s.cfg.strCap →
        Completes .sendLogin s ([0x1A] ++ dst ++ zeros (32 - dst.length) ++ pw)) ∧
      Completes .sendLogout s ([0x1D] ++ dst ++ zeros (32 - dst.length)) ∧
      Completes .sendStatusRequest s ([0x1B] ++ dst ++ zeros (32 - dst.length)) ∧
      Completes .pathDiscovery s ([0x34] ++ dst ++ zeros (32 - dst.length))) ∧
    (∀ dst, s.str.s0 = some dst → 32 < dst.length →
      (s.str.s1 ≠ none → Fails .sendLogin s 2 0) ∧ Fails .sendLogout s 2 0 ∧ Fails .sendStatusRequest s 2 0 ∧
      Fails .pathDiscovery s 2 0) ∧
    (s.str.s0 = none ∨ s.str.s1 = none → Faults .sendLogin s) ∧
    (s.str.s0 = none → Faults .sendLogout s ∧ Faults .sendStatusRequest s ∧ Faults .pathDiscovery s)

/-- R128, R138, R140: `sendAdvertisement` emits the flood byte exactly for the flag 1; `getChannel` emits a one-byte index, `getStats` a selector of 0 to 2; a larger argument is rejected. -/
def Obligations.OneByteCommandsEmitTheirArgument : Prop :=
  decodeReq 0x00000900#32 = .ok .sendAdvertisement ∧ decodeReq 0x00001300#32 = .ok .getChannel ∧
  decodeReq 0x00001500#32 = .ok .getStats ∧ ∀ s : State, s.cfg.Ok →
    (∀ v, s.num.n0 = some v →
      (v = 0 → Completes .sendAdvertisement s [0x07]) ∧ (v = 1 → Completes .sendAdvertisement s [0x07, 0x01]) ∧
      (2 ≤ v.toNat → Fails .sendAdvertisement s 2 0) ∧
      (v.toNat < 256 → Completes .getChannel s [0x1F, BitVec.ofNat 8 v.toNat]) ∧
      (256 ≤ v.toNat → Fails .getChannel s 2 0) ∧
      (v.toNat ≤ 2 → Completes .getStats s [0x38, BitVec.ofNat 8 v.toNat]) ∧ (2 < v.toNat → Fails .getStats s 2 0)) ∧
    (s.num.n0 = none → Faults .sendAdvertisement s ∧ Faults .getChannel s ∧ Faults .getStats s)

/-- R139: `setChannel` emits index, the name truncated or zero-padded to 32 bytes, and a secret of exactly 16 bytes; the first failing field is reported. -/
def Obligations.SetChannelEmitsItsFields : Prop :=
  decodeReq 0x00001400#32 = .ok .setChannel ∧ ∀ s : State, s.cfg.Ok →
    (∀ ix name sec, s.num.n0 = some ix → s.str.s0 = some name → s.str.s1 = some sec →
      (ix.toNat < 256 → sec.length = 16 →
        Completes .setChannel s
          ([0x20, BitVec.ofNat 8 ix.toNat] ++ name.take 32 ++ zeros (32 - (name.take 32).length) ++ sec)) ∧
      (256 ≤ ix.toNat → Fails .setChannel s 2 0) ∧
      (ix.toNat < 256 → sec.length ≠ 16 → Fails .setChannel s 2 2)) ∧
    (s.num.n0 = none ∨ s.str.s0 = none ∨ s.str.s1 = none → Faults .setChannel s)

/-- R146: `sendTrace` emits tag, auth and flags; the first failing field is reported. -/
def Obligations.SendTraceEmitsItsFields : Prop :=
  decodeReq 0x00001B00#32 = .ok .sendTrace ∧ ∀ s : State, s.cfg.Ok →
    (∀ tag auth fl, s.num.n0 = some tag → s.num.n1 = some auth → s.num.n2 = some fl →
      (tag.toNat < 2 ^ 32 → auth.toNat < 2 ^ 32 → fl.toNat < 2 ^ 8 →
        Completes .sendTrace s ([0x24] ++ le tag.toNat 4 ++ le auth.toNat 4 ++ [BitVec.ofNat 8 fl.toNat])) ∧
      (2 ^ 32 ≤ tag.toNat → Fails .sendTrace s 2 0) ∧
      (tag.toNat < 2 ^ 32 → 2 ^ 32 ≤ auth.toNat → Fails .sendTrace s 2 1) ∧
      (tag.toNat < 2 ^ 32 → auth.toNat < 2 ^ 32 → 2 ^ 8 ≤ fl.toNat → Fails .sendTrace s 2 2)) ∧
    (s.num.n0 = none ∨ s.num.n1 = none ∨ s.num.n2 = none → Faults .sendTrace s)

/-! ## Telemetry -/

/-- R149 to R151, R153: `LPP.ENTRY k` of a one-component sensor emits channel, type and the scaled component big-endian, or fails with `VALUE_OUT_OF_RANGE(k)`. -/
def Obligations.OneComponentEntriesEncode : Prop :=
  ∀ (s : State) (k : Byte) (en : Entry), s.cfg.Ok → k.toNat < s.cfg.lppSlots → readEntry s.ent k.toNat = some en →
    (en.sk = 0 →
      (∀ q, InsideRange s.cfg en.c0 10 .trunc (-32768) 32767 q → Completes (.lppEntry k) s ([en.ch, 0x67] ++ be q 2)) ∧
      (OutsideRange s.cfg en.c0 10 .trunc (-32768) 32767 → Fails (.lppEntry k) s 3 k)) ∧
    (en.sk = 1 →
      (∀ q, InsideRange s.cfg en.c0 2 .trunc 0 255 q → Completes (.lppEntry k) s ([en.ch, 0x68] ++ be q 1)) ∧
      (OutsideRange s.cfg en.c0 2 .trunc 0 255 → Fails (.lppEntry k) s 3 k)) ∧
    (en.sk = 2 →
      (∀ q, InsideRange s.cfg en.c0 100 .trunc (-32768) 32767 q → Completes (.lppEntry k) s ([en.ch, 0x02] ++ be q 2)) ∧
      (OutsideRange s.cfg en.c0 100 .trunc (-32768) 32767 → Fails (.lppEntry k) s 3 k)) ∧
    (en.sk = 4 →
      (∀ q, InsideRange s.cfg en.c0 10 .rnd 0 65535 q → Completes (.lppEntry k) s ([en.ch, 0x73] ++ be q 2)) ∧
      (OutsideRange s.cfg en.c0 10 .rnd 0 65535 → Fails (.lppEntry k) s 3 k))

/-- R152, R154: `LPP.ENTRY k` of GPS or Accelerometer emits channel, type and the three scaled components big-endian; any component out of range, or not finite, fails with `VALUE_OUT_OF_RANGE(k)`. -/
def Obligations.ThreeComponentEntriesEncode : Prop :=
  ∀ (s : State) (k : Byte) (en : Entry), s.cfg.Ok → k.toNat < s.cfg.lppSlots → readEntry s.ent k.toNat = some en →
    (en.sk = 3 →
      (∀ q0 q1 q2, InsideRange s.cfg en.c0 10000 .trunc (-2 ^ 23) (2 ^ 23 - 1) q0 →
        InsideRange s.cfg en.c1 10000 .trunc (-2 ^ 23) (2 ^ 23 - 1) q1 →
        InsideRange s.cfg en.c2 100 .trunc (-2 ^ 23) (2 ^ 23 - 1) q2 →
        Completes (.lppEntry k) s ([en.ch, 0x88] ++ be q0 3 ++ be q1 3 ++ be q2 3)) ∧
      (OutsideRange s.cfg en.c0 10000 .trunc (-2 ^ 23) (2 ^ 23 - 1) ∨
        OutsideRange s.cfg en.c1 10000 .trunc (-2 ^ 23) (2 ^ 23 - 1) ∨
        OutsideRange s.cfg en.c2 100 .trunc (-2 ^ 23) (2 ^ 23 - 1) → Fails (.lppEntry k) s 3 k)) ∧
    (en.sk = 5 →
      (∀ q0 q1 q2, InsideRange s.cfg en.c0 1000 .trunc (-32768) 32767 q0 →
        InsideRange s.cfg en.c1 1000 .trunc (-32768) 32767 q1 → InsideRange s.cfg en.c2 1000 .trunc (-32768) 32767 q2 →
        Completes (.lppEntry k) s ([en.ch, 0x71] ++ be q0 2 ++ be q1 2 ++ be q2 2)) ∧
      (OutsideRange s.cfg en.c0 1000 .trunc (-32768) 32767 ∨ OutsideRange s.cfg en.c1 1000 .trunc (-32768) 32767 ∨
        OutsideRange s.cfg en.c2 1000 .trunc (-32768) 32767 → Fails (.lppEntry k) s 3 k))

/-- THE MODEL'S CHOICE (log entry 12): the sensor rows `LPP.TEMP` to `LPP.ACCEL` run as the request `LPP.ENTRY k` whose entry register holds that sensor kind and channel: they complete with the same frame, and fail with the same error. -/
def Obligations.SensorRowsRunAsTheirEntryRequest : Prop :=
  ∀ (s : State) (k : Byte) (en : Entry) (w : ReqWord), s.cfg.Ok → k.toNat < s.cfg.lppSlots →
    readEntry s.ent k.toNat = some en → s.req = some w → reqArg w = k →
    ∀ i : Instr, (en.sk.toNat, i) ∈
        [(0, .temp en.ch), (1, .hum en.ch), (2, .analog en.ch), (3, .gps en.ch), (4, .baro en.ch), (5, .accel en.ch)] →
      exec i s = exec (.lppEntry k) s ∧ (∀ F, entryBytes s.cfg en k = .ok F → Completes i s F) ∧
        (∀ c x, entryBytes s.cfg en k = .error (.raise c x) → Fails i s c.number x)

/-- R67, R147, R155: an entry whose sensor kind is 6 or above fails with `UNSUPPORTED_SENSOR_KIND(k)`, and an unwritten entry register faults. -/
def Obligations.UnsupportedOrUnwrittenEntryStops : Prop :=
  ∀ (s : State) (k : Byte), k.toNat < s.cfg.lppSlots →
    (∀ en, readEntry s.ent k.toNat = some en → 6 ≤ en.sk.toNat → Fails (.lppEntry k) s 4 k) ∧
    (readEntry s.ent k.toNat = none → Faults (.lppEntry k) s)

/-- R109, R148: the bytes of an entry begin with its channel, unchanged, and its sensor's type, and their number is fixed by the sensor kind. -/
def Obligations.EntryBytesHaveChannelTypeAndFixedLength : Prop :=
  ∀ (c : Config) (en : Entry) (e : Byte) (F : Bytes), entryBytes c en e = .ok F →
    ∃ type len, (en.sk.toNat, type, len) ∈
        [(0, (0x67 : Byte), 4), (1, 0x68, 3), (2, 0x02, 4), (3, 0x88, 11), (4, 0x73, 4), (5, 0x71, 8)] ∧
      F[0]? = some en.ch ∧ F[1]? = some type ∧ F.length = len

/-- R156: `LPP.FRAME n` concatenates the entries `E0 .. E(n-1)` in index order; the first entry that fails is reported by its index with no frame; an unwritten entry faults; `n = 0` gives the empty frame. -/
def Obligations.FrameConcatenatesEntriesInOrder : Prop :=
  ∀ (s : State) (n : Byte), s.cfg.Ok → n.toNat ≤ s.cfg.lppSlots →
    (∀ ens : List Entry, ens.length = n.toNat → (∀ i, i < n.toNat → readEntry s.ent i = ens[i]?) →
      (∀ Fs : List Bytes, Fs.length = n.toNat →
        (∀ i en F, ens[i]? = some en → Fs[i]? = some F → entryBytes s.cfg en (BitVec.ofNat 8 i) = .ok F) →
        Completes (.lppFrame n) s Fs.flatten) ∧
      (∀ j en c x, ens[j]? = some en → entryBytes s.cfg en (BitVec.ofNat 8 j) = .error (.raise c x) →
        (∀ i en', i < j → ens[i]? = some en' → ∃ F, entryBytes s.cfg en' (BitVec.ofNat 8 i) = .ok F) →
        x = BitVec.ofNat 8 j ∧ Fails (.lppFrame n) s c.number x)) ∧
    ((∃ i, i < n.toNat ∧ readEntry s.ent i = none) → Faults (.lppFrame n) s) ∧
    (n = 0 → Completes (.lppFrame n) s [])
end

