-- ==== Sys2Proof/Laws/Decode.lean ====
section
/-! SUPPORT. The fields of the encoded words: what the extractors read of a composed word, and that a word is composed of its fields. -/

namespace Sys2Proof

theorem reqUnit_toNat (w : ReqWord) : (reqUnit w).toNat = w.toNat % 4 := by
  simp [reqUnit]

theorem reqReservedLo_toNat (w : ReqWord) : (reqReservedLo w).toNat = w.toNat / 4 % 64 := by
  simp [reqReservedLo, Nat.shiftRight_eq_div_pow]

theorem reqKind_toNat (w : ReqWord) : (reqKind w).toNat = w.toNat / 2 ^ 8 % 256 := by
  simp [reqKind, Nat.shiftRight_eq_div_pow]

theorem reqArg_toNat (w : ReqWord) : (reqArg w).toNat = w.toNat / 2 ^ 16 % 256 := by
  simp [reqArg, Nat.shiftRight_eq_div_pow]

theorem reqReservedHi_toNat (w : ReqWord) : (reqReservedHi w).toNat = w.toNat / 2 ^ 24 := by
  have := w.isLt
  simp [reqReservedHi, Nat.shiftRight_eq_div_pow]
  omega

theorem entryCh_toNat (ew : EntryWord) : (entryCh ew).toNat = ew.toNat % 256 := by
  simp [entryCh]

theorem entrySk_toNat (ew : EntryWord) : (entrySk ew).toNat = ew.toNat / 256 := by
  have := ew.isLt
  simp [entrySk, Nat.shiftRight_eq_div_pow]
  omega

theorem reqWord_toNat (unit : BitVec 2) (kind arg : Byte) :
    (reqWord unit kind arg).toNat = unit.toNat + 2 ^ 8 * kind.toNat + 2 ^ 16 * arg.toNat := by
  have := unit.isLt
  have := kind.isLt
  have := arg.isLt
  simp [reqWord]
  omega

theorem entryWord_toNat (sk ch : Byte) : (entryWord sk ch).toNat = ch.toNat + 2 ^ 8 * sk.toNat := by
  have := sk.isLt
  have := ch.isLt
  simp [entryWord]
  omega

@[simp] theorem reqUnit_reqWord (unit : BitVec 2) (kind arg : Byte) : reqUnit (reqWord unit kind arg) = unit := by
  have := unit.isLt
  apply BitVec.eq_of_toNat_eq
  rw [reqUnit_toNat, reqWord_toNat]
  omega

@[simp] theorem reqKind_reqWord (unit : BitVec 2) (kind arg : Byte) : reqKind (reqWord unit kind arg) = kind := by
  have := unit.isLt
  have := kind.isLt
  apply BitVec.eq_of_toNat_eq
  rw [reqKind_toNat, reqWord_toNat]
  omega

@[simp] theorem reqArg_reqWord (unit : BitVec 2) (kind arg : Byte) : reqArg (reqWord unit kind arg) = arg := by
  have := unit.isLt
  have := kind.isLt
  have := arg.isLt
  apply BitVec.eq_of_toNat_eq
  rw [reqArg_toNat, reqWord_toNat]
  omega

@[simp] theorem reqReservedLo_reqWord (unit : BitVec 2) (kind arg : Byte) : reqReservedLo (reqWord unit kind arg) = 0 := by
  have := unit.isLt
  apply BitVec.eq_of_toNat_eq
  rw [reqReservedLo_toNat, reqWord_toNat]
  simp
  omega

@[simp] theorem reqReservedHi_reqWord (unit : BitVec 2) (kind arg : Byte) : reqReservedHi (reqWord unit kind arg) = 0 := by
  have := unit.isLt
  have := kind.isLt
  have := arg.isLt
  apply BitVec.eq_of_toNat_eq
  rw [reqReservedHi_toNat, reqWord_toNat]
  simp
  omega

@[simp] theorem entryCh_entryWord (sk ch : Byte) : entryCh (entryWord sk ch) = ch := by
  have := ch.isLt
  apply BitVec.eq_of_toNat_eq
  rw [entryCh_toNat, entryWord_toNat]
  omega

@[simp] theorem entrySk_entryWord (sk ch : Byte) : entrySk (entryWord sk ch) = sk := by
  have := ch.isLt
  apply BitVec.eq_of_toNat_eq
  rw [entrySk_toNat, entryWord_toNat]
  omega

/-- A word whose reserved bits are zero is composed of its fields (R56). -/
theorem reqWord_fields {w : ReqWord} (hlo : reqReservedLo w = 0) (hhi : reqReservedHi w = 0) :
    reqWord (reqUnit w) (reqKind w) (reqArg w) = w := by
  have h1 := congrArg BitVec.toNat hlo
  have h2 := congrArg BitVec.toNat hhi
  rw [reqReservedLo_toNat] at h1
  rw [reqReservedHi_toNat] at h2
  apply BitVec.eq_of_toNat_eq
  rw [reqWord_toNat, reqUnit_toNat, reqKind_toNat, reqArg_toNat]
  simp at h1 h2
  omega

/-- An entry descriptor is composed of its fields (R62). -/
theorem entryWord_fields (ew : EntryWord) : entryWord (entrySk ew) (entryCh ew) = ew := by
  apply BitVec.eq_of_toNat_eq
  rw [entryWord_toNat, entrySk_toNat, entryCh_toNat]
  omega

end Sys2Proof
end

