-- ==== Sys2Proof/Laws/Memory.lean ====
section
/-! SUPPORT. The laws of key and value lists, of OUT and of the register files: read after write, writes elsewhere, and the canonical form. -/

namespace Sys2Proof.Machine

variable {α : Type}

@[simp] theorem lookupKey_nil (k : Nat) : lookupKey ([] : List (Nat × α)) k = none := rfl

/-- Read after write: what is stored under `k` is read there, every other key reads as before. -/
theorem lookupKey_storeKey (l : List (Nat × α)) (k a : Nat) (v : α) :
    lookupKey (storeKey l k v) a = if a = k then some v else lookupKey l a := by
  induction l with
  | nil => simp [storeKey, lookupKey]
  | cons p rest ih =>
    obtain ⟨j, u⟩ := p
    simp only [storeKey]
    split_ifs with h1 h2 h3 h4 <;> simp_all [lookupKey]

theorem lookupKey_storeKey_self (l : List (Nat × α)) (k : Nat) (v : α) : lookupKey (storeKey l k v) k = some v := by
  simp [lookupKey_storeKey]

theorem lookupKey_storeKey_ne (l : List (Nat × α)) {k a : Nat} (h : a ≠ k) (v : α) :
    lookupKey (storeKey l k v) a = lookupKey l a := by
  simp [lookupKey_storeKey, h]

/-- Storing keeps the canonical form. -/
theorem keysRise_storeKey (l : List (Nat × α)) (k : Nat) (v : α) (lo : Option Nat) (h : keysRise lo l = true)
    (hlo : ∀ b, lo = some b → b < k) : keysRise lo (storeKey l k v) = true := by
  induction l generalizing lo with
  | nil => cases lo <;> simp_all [storeKey, keysRise]
  | cons p rest ih =>
    obtain ⟨j, u⟩ := p
    simp only [storeKey]
    split_ifs with h1 h2
    · cases lo <;> simp_all [keysRise]
    · subst h2; cases lo <;> simp_all [keysRise]
    · have hj : ∀ b, some j = some b → b < k := by intro b hb; cases hb; omega
      cases lo <;> simp_all [keysRise]

/-- The keys of a list after storing: the old ones and `k`. -/
theorem mem_storeKey {l : List (Nat × α)} {k : Nat} {v : α} {p : Nat × α} (h : p ∈ storeKey l k v) :
    p = (k, v) ∨ p ∈ l := by
  induction l with
  | nil => simp_all [storeKey]
  | cons q rest ih =>
    obtain ⟨j, u⟩ := q
    simp only [storeKey] at h
    split_ifs at h <;> simp_all <;> tauto

/-- An address after a write of bytes: inside it reads the byte written, outside as before. -/
theorem Memory.read_write (m : Memory) (a : Nat) (bs : Bytes) (x : Nat) :
    Memory.read (Memory.write m a bs) x =
      if a ≤ x ∧ x < a + bs.length then bs[x - a]? else Memory.read m x := by
  induction bs generalizing m a with
  | nil => simp [Memory.write]
  | cons b rest ih =>
    simp only [Memory.write, ih, List.length_cons]
    simp only [Memory.read, lookupKey_storeKey]
    rcases Nat.lt_trichotomy x a with h | h | h
    · have h1 : ¬(a + 1 ≤ x ∧ x < a + 1 + rest.length) := by omega
      have h2 : ¬(a ≤ x ∧ x < a + (rest.length + 1)) := by omega
      rw [if_neg h1, if_neg h2, if_neg (Nat.ne_of_lt h)]
    · subst h
      simp
    · have e : x - a = x - (a + 1) + 1 := by omega
      have hne : x ≠ a := by omega
      by_cases h1 : x < a + 1 + rest.length
      · have h2 : x < a + (rest.length + 1) := by omega
        simp [h1, h2, Nat.le_of_lt h, e, Nat.succ_le_of_lt h]
      · have h2 : ¬ x < a + (rest.length + 1) := by omega
        simp [h1, h2, hne]

theorem Memory.wf_write (m : Memory) (a : Nat) (bs : Bytes) (h : Memory.wf m = true) :
    Memory.wf (Memory.write m a bs) = true := by
  induction bs generalizing m a with
  | nil => exact h
  | cons b rest ih =>
    exact ih _ _ (keysRise_storeKey m a b none h (by simp))

/-- Memory after reset lists nothing and is in canonical form. -/
theorem Memory.wf_reset : Memory.wf State.reset.out = true := rfl

/-- Writing an entry register keeps the entry file's canonical form. -/
theorem keysRise_writeEntry (f : EntryFile) (k : Nat) (en : Entry) (h : keysRise none f = true) :
    keysRise none (writeEntry f k en) = true := keysRise_storeKey f k en none h (by simp)

theorem Memory.mem_write {m : Memory} {a : Nat} {bs : Bytes} {p : Host.Cell} (h : p ∈ Memory.write m a bs) :
    p ∈ m ∨ (a ≤ p.1 ∧ p.1 < a + bs.length) := by
  induction bs generalizing m a with
  | nil => exact .inl h
  | cons b rest ih =>
    rcases ih h with h1 | h1
    · rcases mem_storeKey h1 with h2 | h2
      · right; subst h2; simp
      · exact .inl h2
    · right; simp only [List.length_cons]; omega

theorem readNum_writeNum (f : NumFile) (r q : NReg) (v : Word64) :
    readNum (writeNum f r v) q = if q = r then some v else readNum f q := by
  cases r <;> cases q <;> rfl

theorem readStr_writeStr (f : StrFile) (r q : SReg) (b : Bytes) :
    readStr (writeStr f r b) q = if q = r then some b else readStr f q := by
  cases r <;> cases q <;> rfl

theorem readEntry_writeEntry (f : EntryFile) (k a : Nat) (en : Entry) :
    readEntry (writeEntry f k en) a = if a = k then some en else readEntry f a :=
  lookupKey_storeKey f k a en

end Sys2Proof.Machine
end

