-- ==== Sys2Proof/Laws/State.lean ====
section
/-! SUPPORT. One lemma per field per update of the state, true by rfl, so that no later proof unfolds a record update. -/

namespace Sys2Proof.Machine

/-- After an accepted `START` the engine reads the request word it wrote. -/
theorem requestWord_some {s : State} {w : ReqWord} (h : s.req = some w) : requestWord s = w := by simp [requestWord, h]

@[simp] theorem dropTransaction_cfg (s : State) : (dropTransaction s).cfg = s.cfg := rfl
@[simp] theorem dropTransaction_num (s : State) : (dropTransaction s).num = s.num := rfl
@[simp] theorem dropTransaction_str (s : State) : (dropTransaction s).str = s.str := rfl
@[simp] theorem dropTransaction_ent (s : State) : (dropTransaction s).ent = s.ent := rfl
@[simp] theorem dropTransaction_req (s : State) : (dropTransaction s).req = s.req := rfl
@[simp] theorem dropTransaction_status (s : State) : (dropTransaction s).status = statusDropped s.status := rfl
@[simp] theorem dropTransaction_outLen (s : State) : (dropTransaction s).outLen = s.outLen := rfl
@[simp] theorem dropTransaction_out (s : State) : (dropTransaction s).out = s.out := rfl
@[simp] theorem dropTransaction_events (s : State) : (dropTransaction s).events = s.events := rfl
@[simp] theorem dropTransaction_replies (s : State) : (dropTransaction s).replies = s.replies := rfl

@[simp] theorem acceptStart_cfg (w : ReqWord) (s : State) : (acceptStart w s).cfg = s.cfg := rfl
@[simp] theorem acceptStart_num (w : ReqWord) (s : State) : (acceptStart w s).num = s.num := rfl
@[simp] theorem acceptStart_str (w : ReqWord) (s : State) : (acceptStart w s).str = s.str := rfl
@[simp] theorem acceptStart_ent (w : ReqWord) (s : State) : (acceptStart w s).ent = s.ent := rfl
@[simp] theorem acceptStart_req (w : ReqWord) (s : State) : (acceptStart w s).req = some w := rfl
@[simp] theorem acceptStart_status (w : ReqWord) (s : State) : (acceptStart w s).status = statusStarted s.status := rfl
@[simp] theorem acceptStart_outLen (w : ReqWord) (s : State) : (acceptStart w s).outLen = 0 := rfl
@[simp] theorem acceptStart_out (w : ReqWord) (s : State) : (acceptStart w s).out = s.out := rfl
@[simp] theorem acceptStart_events (w : ReqWord) (s : State) : (acceptStart w s).events = s.events := rfl
@[simp] theorem acceptStart_replies (w : ReqWord) (s : State) : (acceptStart w s).replies = s.replies := rfl

@[simp] theorem acceptClear_cfg (s : State) : (acceptClear s).cfg = s.cfg := rfl
@[simp] theorem acceptClear_num (s : State) : (acceptClear s).num = s.num := rfl
@[simp] theorem acceptClear_str (s : State) : (acceptClear s).str = s.str := rfl
@[simp] theorem acceptClear_ent (s : State) : (acceptClear s).ent = s.ent := rfl
@[simp] theorem acceptClear_req (s : State) : (acceptClear s).req = s.req := rfl
@[simp] theorem acceptClear_status (s : State) : (acceptClear s).status = statusCleared s.status := rfl
@[simp] theorem acceptClear_outLen (s : State) : (acceptClear s).outLen = s.outLen := rfl
@[simp] theorem acceptClear_out (s : State) : (acceptClear s).out = s.out := rfl
@[simp] theorem acceptClear_events (s : State) : (acceptClear s).events = s.events := rfl
@[simp] theorem acceptClear_replies (s : State) : (acceptClear s).replies = s.replies := rfl

@[simp] theorem acceptWriteEntry_cfg (k : Byte) (ew : EntryWord) (c0 c1 c2 : Word64) (s : State) : (acceptWriteEntry k ew c0 c1 c2 s).cfg = s.cfg := rfl
@[simp] theorem acceptWriteEntry_num (k : Byte) (ew : EntryWord) (c0 c1 c2 : Word64) (s : State) : (acceptWriteEntry k ew c0 c1 c2 s).num = s.num := rfl
@[simp] theorem acceptWriteEntry_str (k : Byte) (ew : EntryWord) (c0 c1 c2 : Word64) (s : State) : (acceptWriteEntry k ew c0 c1 c2 s).str = s.str := rfl
@[simp] theorem acceptWriteEntry_ent (k : Byte) (ew : EntryWord) (c0 c1 c2 : Word64) (s : State) : (acceptWriteEntry k ew c0 c1 c2 s).ent = writeEntry s.ent k.toNat (entryOf ew c0 c1 c2) := rfl
@[simp] theorem acceptWriteEntry_req (k : Byte) (ew : EntryWord) (c0 c1 c2 : Word64) (s : State) : (acceptWriteEntry k ew c0 c1 c2 s).req = s.req := rfl
@[simp] theorem acceptWriteEntry_status (k : Byte) (ew : EntryWord) (c0 c1 c2 : Word64) (s : State) : (acceptWriteEntry k ew c0 c1 c2 s).status = s.status := rfl
@[simp] theorem acceptWriteEntry_outLen (k : Byte) (ew : EntryWord) (c0 c1 c2 : Word64) (s : State) : (acceptWriteEntry k ew c0 c1 c2 s).outLen = s.outLen := rfl
@[simp] theorem acceptWriteEntry_out (k : Byte) (ew : EntryWord) (c0 c1 c2 : Word64) (s : State) : (acceptWriteEntry k ew c0 c1 c2 s).out = s.out := rfl
@[simp] theorem acceptWriteEntry_events (k : Byte) (ew : EntryWord) (c0 c1 c2 : Word64) (s : State) : (acceptWriteEntry k ew c0 c1 c2 s).events = s.events := rfl
@[simp] theorem acceptWriteEntry_replies (k : Byte) (ew : EntryWord) (c0 c1 c2 : Word64) (s : State) : (acceptWriteEntry k ew c0 c1 c2 s).replies = s.replies := rfl

@[simp] theorem reply_cfg (r : Reply) (s : State) : (reply r s).cfg = s.cfg := rfl
@[simp] theorem reply_num (r : Reply) (s : State) : (reply r s).num = s.num := rfl
@[simp] theorem reply_str (r : Reply) (s : State) : (reply r s).str = s.str := rfl
@[simp] theorem reply_ent (r : Reply) (s : State) : (reply r s).ent = s.ent := rfl
@[simp] theorem reply_req (r : Reply) (s : State) : (reply r s).req = s.req := rfl
@[simp] theorem reply_status (r : Reply) (s : State) : (reply r s).status = s.status := rfl
@[simp] theorem reply_outLen (r : Reply) (s : State) : (reply r s).outLen = s.outLen := rfl
@[simp] theorem reply_out (r : Reply) (s : State) : (reply r s).out = s.out := rfl
@[simp] theorem reply_events (r : Reply) (s : State) : (reply r s).events = s.events := rfl
@[simp] theorem reply_replies (r : Reply) (s : State) : (reply r s).replies = s.replies ++ [r] := rfl

@[simp] theorem succeed_cfg (F : Bytes) (s : State) : (succeed F s).cfg = s.cfg := rfl
@[simp] theorem succeed_num (F : Bytes) (s : State) : (succeed F s).num = s.num := rfl
@[simp] theorem succeed_str (F : Bytes) (s : State) : (succeed F s).str = s.str := rfl
@[simp] theorem succeed_ent (F : Bytes) (s : State) : (succeed F s).ent = s.ent := rfl
@[simp] theorem succeed_req (F : Bytes) (s : State) : (succeed F s).req = s.req := rfl
@[simp] theorem succeed_status (F : Bytes) (s : State) : (succeed F s).status = statusSucceeded s.status := rfl
@[simp] theorem succeed_outLen (F : Bytes) (s : State) : (succeed F s).outLen = BitVec.ofNat 16 F.length := rfl
@[simp] theorem succeed_out (F : Bytes) (s : State) : (succeed F s).out = Memory.write s.out 0 F := rfl
@[simp] theorem succeed_events (F : Bytes) (s : State) : (succeed F s).events = s.events := rfl
@[simp] theorem succeed_replies (F : Bytes) (s : State) : (succeed F s).replies = s.replies := rfl

@[simp] theorem failWith_cfg (c : ErrorCode) (i : Byte) (s : State) : (failWith c i s).cfg = s.cfg := rfl
@[simp] theorem failWith_num (c : ErrorCode) (i : Byte) (s : State) : (failWith c i s).num = s.num := rfl
@[simp] theorem failWith_str (c : ErrorCode) (i : Byte) (s : State) : (failWith c i s).str = s.str := rfl
@[simp] theorem failWith_ent (c : ErrorCode) (i : Byte) (s : State) : (failWith c i s).ent = s.ent := rfl
@[simp] theorem failWith_req (c : ErrorCode) (i : Byte) (s : State) : (failWith c i s).req = s.req := rfl
@[simp] theorem failWith_status (c : ErrorCode) (i : Byte) (s : State) : (failWith c i s).status = statusFailed c i s.status := rfl
@[simp] theorem failWith_outLen (c : ErrorCode) (i : Byte) (s : State) : (failWith c i s).outLen = s.outLen := rfl
@[simp] theorem failWith_out (c : ErrorCode) (i : Byte) (s : State) : (failWith c i s).out = s.out := rfl
@[simp] theorem failWith_events (c : ErrorCode) (i : Byte) (s : State) : (failWith c i s).events = s.events := rfl
@[simp] theorem failWith_replies (c : ErrorCode) (i : Byte) (s : State) : (failWith c i s).replies = s.replies := rfl

@[simp] theorem resetEvent_cfg (s : State) : (resetEvent s).cfg = s.cfg := rfl
@[simp] theorem resetEvent_num (s : State) : (resetEvent s).num = { n0 := none, n1 := none, n2 := none, n3 := none } := rfl
@[simp] theorem resetEvent_str (s : State) : (resetEvent s).str = { s0 := none, s1 := none } := rfl
@[simp] theorem resetEvent_ent (s : State) : (resetEvent s).ent = [] := rfl
@[simp] theorem resetEvent_req (s : State) : (resetEvent s).req = none := rfl
@[simp] theorem resetEvent_status (s : State) : (resetEvent s).status = Status.reset := rfl
@[simp] theorem resetEvent_outLen (s : State) : (resetEvent s).outLen = 0 := rfl
@[simp] theorem resetEvent_out (s : State) : (resetEvent s).out = [] := rfl
@[simp] theorem resetEvent_events (s : State) : (resetEvent s).events = s.events := rfl
@[simp] theorem resetEvent_replies (s : State) : (resetEvent s).replies = s.replies := rfl

@[simp] theorem statusDropped_busy (st : Status) : (statusDropped st).busy = st.busy := rfl
@[simp] theorem statusDropped_done (st : Status) : (statusDropped st).done = st.done := rfl
@[simp] theorem statusDropped_err (st : Status) : (statusDropped st).err = st.err := rfl
@[simp] theorem statusDropped_drop (st : Status) : (statusDropped st).drop = true := rfl
@[simp] theorem statusDropped_ecode (st : Status) : (statusDropped st).ecode = st.ecode := rfl
@[simp] theorem statusDropped_eidx (st : Status) : (statusDropped st).eidx = st.eidx := rfl

@[simp] theorem statusCleared_busy (st : Status) : (statusCleared st).busy = st.busy := rfl
@[simp] theorem statusCleared_done (st : Status) : (statusCleared st).done = st.done := rfl
@[simp] theorem statusCleared_err (st : Status) : (statusCleared st).err = st.err := rfl
@[simp] theorem statusCleared_drop (st : Status) : (statusCleared st).drop = false := rfl
@[simp] theorem statusCleared_ecode (st : Status) : (statusCleared st).ecode = st.ecode := rfl
@[simp] theorem statusCleared_eidx (st : Status) : (statusCleared st).eidx = st.eidx := rfl

@[simp] theorem statusStarted_busy (st : Status) : (statusStarted st).busy = true := rfl
@[simp] theorem statusStarted_done (st : Status) : (statusStarted st).done = false := rfl
@[simp] theorem statusStarted_err (st : Status) : (statusStarted st).err = false := rfl
@[simp] theorem statusStarted_drop (st : Status) : (statusStarted st).drop = st.drop := rfl
@[simp] theorem statusStarted_ecode (st : Status) : (statusStarted st).ecode = 0 := rfl
@[simp] theorem statusStarted_eidx (st : Status) : (statusStarted st).eidx = 0 := rfl

@[simp] theorem statusSucceeded_busy (st : Status) : (statusSucceeded st).busy = false := rfl
@[simp] theorem statusSucceeded_done (st : Status) : (statusSucceeded st).done = true := rfl
@[simp] theorem statusSucceeded_err (st : Status) : (statusSucceeded st).err = false := rfl
@[simp] theorem statusSucceeded_drop (st : Status) : (statusSucceeded st).drop = st.drop := rfl
@[simp] theorem statusSucceeded_ecode (st : Status) : (statusSucceeded st).ecode = 0 := rfl
@[simp] theorem statusSucceeded_eidx (st : Status) : (statusSucceeded st).eidx = 0 := rfl

@[simp] theorem statusFailed_busy (c : ErrorCode) (i : Byte) (st : Status) : (statusFailed c i st).busy = false := rfl
@[simp] theorem statusFailed_done (c : ErrorCode) (i : Byte) (st : Status) : (statusFailed c i st).done = true := rfl
@[simp] theorem statusFailed_err (c : ErrorCode) (i : Byte) (st : Status) : (statusFailed c i st).err = true := rfl
@[simp] theorem statusFailed_drop (c : ErrorCode) (i : Byte) (st : Status) : (statusFailed c i st).drop = st.drop := rfl
@[simp] theorem statusFailed_ecode (c : ErrorCode) (i : Byte) (st : Status) : (statusFailed c i st).ecode = c.number := rfl
@[simp] theorem statusFailed_eidx (c : ErrorCode) (i : Byte) (st : Status) : (statusFailed c i st).eidx = i := rfl

@[simp] theorem Status_reset_busy  : (Status.reset).busy = false := rfl
@[simp] theorem Status_reset_done  : (Status.reset).done = false := rfl
@[simp] theorem Status_reset_err  : (Status.reset).err = false := rfl
@[simp] theorem Status_reset_drop  : (Status.reset).drop = false := rfl
@[simp] theorem Status_reset_ecode  : (Status.reset).ecode = 0 := rfl
@[simp] theorem Status_reset_eidx  : (Status.reset).eidx = 0 := rfl

@[simp] theorem acceptWriteNum_cfg (i : Byte) (v : Word64) (s : State) : (acceptWriteNum i v s).cfg = s.cfg := by
  unfold acceptWriteNum; split <;> rfl
@[simp] theorem acceptWriteNum_str (i : Byte) (v : Word64) (s : State) : (acceptWriteNum i v s).str = s.str := by
  unfold acceptWriteNum; split <;> rfl
@[simp] theorem acceptWriteNum_ent (i : Byte) (v : Word64) (s : State) : (acceptWriteNum i v s).ent = s.ent := by
  unfold acceptWriteNum; split <;> rfl
@[simp] theorem acceptWriteNum_req (i : Byte) (v : Word64) (s : State) : (acceptWriteNum i v s).req = s.req := by
  unfold acceptWriteNum; split <;> rfl
@[simp] theorem acceptWriteNum_status (i : Byte) (v : Word64) (s : State) : (acceptWriteNum i v s).status = s.status := by
  unfold acceptWriteNum; split <;> rfl
@[simp] theorem acceptWriteNum_outLen (i : Byte) (v : Word64) (s : State) : (acceptWriteNum i v s).outLen = s.outLen := by
  unfold acceptWriteNum; split <;> rfl
@[simp] theorem acceptWriteNum_out (i : Byte) (v : Word64) (s : State) : (acceptWriteNum i v s).out = s.out := by
  unfold acceptWriteNum; split <;> rfl
@[simp] theorem acceptWriteNum_events (i : Byte) (v : Word64) (s : State) : (acceptWriteNum i v s).events = s.events := by
  unfold acceptWriteNum; split <;> rfl
@[simp] theorem acceptWriteNum_replies (i : Byte) (v : Word64) (s : State) : (acceptWriteNum i v s).replies = s.replies := by
  unfold acceptWriteNum; split <;> rfl

@[simp] theorem acceptWriteStr_cfg (j : Byte) (b : Bytes) (s : State) : (acceptWriteStr j b s).cfg = s.cfg := by
  unfold acceptWriteStr; split <;> rfl
@[simp] theorem acceptWriteStr_num (j : Byte) (b : Bytes) (s : State) : (acceptWriteStr j b s).num = s.num := by
  unfold acceptWriteStr; split <;> rfl
@[simp] theorem acceptWriteStr_ent (j : Byte) (b : Bytes) (s : State) : (acceptWriteStr j b s).ent = s.ent := by
  unfold acceptWriteStr; split <;> rfl
@[simp] theorem acceptWriteStr_req (j : Byte) (b : Bytes) (s : State) : (acceptWriteStr j b s).req = s.req := by
  unfold acceptWriteStr; split <;> rfl
@[simp] theorem acceptWriteStr_status (j : Byte) (b : Bytes) (s : State) : (acceptWriteStr j b s).status = s.status := by
  unfold acceptWriteStr; split <;> rfl
@[simp] theorem acceptWriteStr_outLen (j : Byte) (b : Bytes) (s : State) : (acceptWriteStr j b s).outLen = s.outLen := by
  unfold acceptWriteStr; split <;> rfl
@[simp] theorem acceptWriteStr_out (j : Byte) (b : Bytes) (s : State) : (acceptWriteStr j b s).out = s.out := by
  unfold acceptWriteStr; split <;> rfl
@[simp] theorem acceptWriteStr_events (j : Byte) (b : Bytes) (s : State) : (acceptWriteStr j b s).events = s.events := by
  unfold acceptWriteStr; split <;> rfl
@[simp] theorem acceptWriteStr_replies (j : Byte) (b : Bytes) (s : State) : (acceptWriteStr j b s).replies = s.replies := by
  unfold acceptWriteStr; split <;> rfl

end Sys2Proof.Machine
end

