-- ==== Sys2Proof/Laws/Ops.lean ====
section
/-! SUPPORT. What the shared operations can do, said once: completion, the meanings of all instructions, and the transactions. -/

namespace Sys2Proof.Machine

/-- A completion that answers a next state is a success with a frame that fits, or an error (R86, R87). -/
theorem complete_next {r : Encoded} {s t : State} (h : complete r s = .next t) :
    (∃ F, r = .ok F ∧ F.length ≤ s.cfg.outCap ∧ t = succeed F s) ∨
      ∃ c i, r = .error (.raise c i) ∧ t = failWith c i s := by
  unfold complete at h
  split at h
  · rename_i F
    split_ifs at h with hF
    cases h
    exact .inl ⟨F, rfl, hF, rfl⟩
  · cases h
    exact .inr ⟨_, _, rfl, rfl⟩
  · cases h

theorem complete_ok {F : Bytes} {s : State} (h : F.length ≤ s.cfg.outCap) : complete (.ok F) s = .next (succeed F s) := by
  simp [complete, h]

theorem complete_raise (c : ErrorCode) (i : Byte) (s : State) :
    complete (.error (.raise c i)) s = .next (failWith c i s) := rfl

theorem complete_unwritten (s : State) : complete (.error .unwritten) s = .fault .unwrittenArgument := rfl

theorem complete_not_refused (r : Encoded) (s : State) (x : Refusal) : complete r s ≠ .refused x := by
  unfold complete
  split
  · split <;> simp
  · simp
  · simp

/-- The shape of every meaning: a success with a frame that fits `OUT`, or an error. -/
def EngineResult (s t : State) : Prop :=
  (∃ F, F.length ≤ s.cfg.outCap ∧ t = succeed F s) ∨ ∃ c i, t = failWith c i s

theorem complete_result {r : Encoded} {s t : State} (h : complete r s = .next t) : EngineResult s t := by
  rcases complete_next h with ⟨F, _, hF, rfl⟩ | ⟨c, i, _, rfl⟩
  · exact .inl ⟨F, hF, rfl⟩
  · exact .inr ⟨c, i, rfl⟩

theorem runCommand_result {row : CmdRow} {s t : State} (h : runCommand row s = .next t) : EngineResult s t :=
  complete_result h

theorem runSensor_result {row : SensorRow} {ch : Byte} {s t : State} (h : runSensor row ch s = .next t) :
    EngineResult s t := by
  unfold runSensor at h
  dsimp only at h
  split_ifs at h
  · cases h
    exact .inr ⟨_, _, rfl⟩
  · split at h <;> exact complete_result h

/-- The four shapes of a meaning: a command row, a sensor row, `LPP.ENTRY`, `LPP.FRAME`. -/
inductive ExecShape (i : Instr) : Prop where
  | command (row : CmdRow) (h : row ∈ commandRegistry) (e : ∀ s, exec i s = runCommand row s)
  | sensor (row : SensorRow) (h : row ∈ sensorRegistry) (ch : Byte) (e : ∀ s, exec i s = runSensor row ch s)
  | entry (k : Byte) (e : ∀ s, exec i s = execLppEntry k s)
  | frame (n : Byte) (e : ∀ s, exec i s = execLppFrame n s)

/-- Every instruction's meaning has one of the four shapes. -/
theorem exec_shape (i : Instr) : ExecShape i := by
  cases i
  case appStart => exact .command appStartRow (by simp [commandRegistry]) (fun _ => rfl)
  case deviceQuery => exact .command deviceQueryRow (by simp [commandRegistry]) (fun _ => rfl)
  case getBattery => exact .command getBatteryRow (by simp [commandRegistry]) (fun _ => rfl)
  case getTime => exact .command getTimeRow (by simp [commandRegistry]) (fun _ => rfl)
  case setTime => exact .command setTimeRow (by simp [commandRegistry]) (fun _ => rfl)
  case setName => exact .command setNameRow (by simp [commandRegistry]) (fun _ => rfl)
  case setCoords => exact .command setCoordsRow (by simp [commandRegistry]) (fun _ => rfl)
  case setTxPower => exact .command setTxPowerRow (by simp [commandRegistry]) (fun _ => rfl)
  case setRadio => exact .command setRadioRow (by simp [commandRegistry]) (fun _ => rfl)
  case sendAdvertisement => exact .command sendAdvertisementRow (by simp [commandRegistry]) (fun _ => rfl)
  case reboot => exact .command rebootRow (by simp [commandRegistry]) (fun _ => rfl)
  case getContacts => exact .command getContactsRow (by simp [commandRegistry]) (fun _ => rfl)
  case getMessage => exact .command getMessageRow (by simp [commandRegistry]) (fun _ => rfl)
  case sendMessage => exact .command sendMessageRow (by simp [commandRegistry]) (fun _ => rfl)
  case sendCommand => exact .command sendCommandRow (by simp [commandRegistry]) (fun _ => rfl)
  case sendChannelMessage => exact .command sendChannelMessageRow (by simp [commandRegistry]) (fun _ => rfl)
  case sendLogin => exact .command sendLoginRow (by simp [commandRegistry]) (fun _ => rfl)
  case sendLogout => exact .command sendLogoutRow (by simp [commandRegistry]) (fun _ => rfl)
  case sendStatusRequest => exact .command sendStatusRequestRow (by simp [commandRegistry]) (fun _ => rfl)
  case getChannel => exact .command getChannelRow (by simp [commandRegistry]) (fun _ => rfl)
  case setChannel => exact .command setChannelRow (by simp [commandRegistry]) (fun _ => rfl)
  case getStats => exact .command getStatsRow (by simp [commandRegistry]) (fun _ => rfl)
  case getSelfTelemetry => exact .command getSelfTelemetryRow (by simp [commandRegistry]) (fun _ => rfl)
  case exportPrivateKey => exact .command exportPrivateKeyRow (by simp [commandRegistry]) (fun _ => rfl)
  case signStart => exact .command signStartRow (by simp [commandRegistry]) (fun _ => rfl)
  case signFinish => exact .command signFinishRow (by simp [commandRegistry]) (fun _ => rfl)
  case pathDiscovery => exact .command pathDiscoveryRow (by simp [commandRegistry]) (fun _ => rfl)
  case sendTrace => exact .command sendTraceRow (by simp [commandRegistry]) (fun _ => rfl)
  case temp ch => exact .sensor tempRow (by simp [sensorRegistry]) ch (fun _ => rfl)
  case hum ch => exact .sensor humRow (by simp [sensorRegistry]) ch (fun _ => rfl)
  case analog ch => exact .sensor analogRow (by simp [sensorRegistry]) ch (fun _ => rfl)
  case gps ch => exact .sensor gpsRow (by simp [sensorRegistry]) ch (fun _ => rfl)
  case baro ch => exact .sensor baroRow (by simp [sensorRegistry]) ch (fun _ => rfl)
  case accel ch => exact .sensor accelRow (by simp [sensorRegistry]) ch (fun _ => rfl)
  case lppEntry k => exact .entry k (fun _ => rfl)
  case lppFrame n => exact .frame n (fun _ => rfl)

/-- Every meaning that answers a next state succeeds with a frame that fits, or fails with an error (R85). -/
theorem exec_result {i : Instr} {s t : State} (h : exec i s = .next t) : EngineResult s t := by
  cases exec_shape i with
  | command row _ e => rw [e] at h; exact runCommand_result h
  | sensor row _ ch e => rw [e] at h; exact runSensor_result h
  | entry k e =>
    rw [e] at h
    unfold execLppEntry at h
    split_ifs at h
    · cases h; exact .inr ⟨_, _, rfl⟩
    · exact complete_result h
  | frame n e =>
    rw [e] at h
    unfold execLppFrame at h
    split_ifs at h
    · cases h; exact .inr ⟨_, _, rfl⟩
    · exact complete_result h

/-- No meaning refuses. -/
theorem exec_not_refused (i : Instr) (s : State) (x : Refusal) : exec i s ≠ .refused x := by
  cases exec_shape i with
  | command row _ e => rw [e]; exact complete_not_refused _ _ _
  | sensor row _ ch e =>
    rw [e]
    unfold runSensor
    dsimp only
    repeat' split
    all_goals first | exact complete_not_refused _ _ _ | simp
  | entry k e =>
    rw [e]
    unfold execLppEntry
    split
    · simp
    · exact complete_not_refused _ _ _
  | frame n e =>
    rw [e]
    unfold execLppFrame
    split
    · simp
    · exact complete_not_refused _ _ _

/-- A success with a frame that fits is R86's successful completion. -/
theorem succeed_completedWith {s : State} {F : Bytes} (hc : s.cfg.Ok) (hF : F.length ≤ s.cfg.outCap) :
    CompletedWith s F (succeed F s) := by
  have h16 : F.length < 2 ^ 16 := by have := hc.2.2.2; omega
  refine ⟨rfl, rfl, rfl, rfl, rfl, rfl, rfl, rfl, ?_, ?_, ?_⟩
  · simpa using h16
  · intro a ha
    simp [Memory.read_write, ha]
  · intro a ha
    simp [Memory.read_write, Nat.not_lt.mpr ha]

theorem failWith_failedWith (c : ErrorCode) (i : Byte) (s : State) : FailedWith s c.number i (failWith c i s) := rfl

/-- A completion with a frame that fits, in the terms of the claims. -/
theorem complete_completedWith {s : State} {F : Bytes} (hc : s.cfg.Ok) (hF : F.length ≤ s.cfg.outCap) :
    ∃ t, complete (.ok F) s = .next t ∧ CompletedWith s F t :=
  ⟨_, complete_ok hF, succeed_completedWith hc hF⟩

theorem complete_failedWith (c : ErrorCode) (i : Byte) (s : State) :
    ∃ t, complete (.error (.raise c i)) s = .next t ∧ FailedWith s c.number i t :=
  ⟨_, rfl, rfl⟩

/-- What a transaction that is not dropped leaves of the state. -/
theorem transact_dropped {t : Transaction} {s : State} (h : dropped t s = true) : transact t s = dropTransaction s := by
  simp [transact, h]

theorem transact_accepted {t : Transaction} {s : State} (h : dropped t s = false) : transact t s = accept t s := by
  simp [transact, h]

/-- An idle LFS's `WN N<i>` writes its register (R77, R74). -/
theorem transact_writeNum {s : State} (h : s.status.busy = false) (r : NReg) (v : Word64) :
    transact (.writeNum (numIndex r) v) s = { s with num := writeNum s.num r v } := by
  cases r <;> simp [transact, dropped, h, accept, acceptWriteNum, numIndex, nregOfIndex]

/-- An idle LFS's `WS S<j>` of a string within `STR_CAP` writes its register (R78, R74). -/
theorem transact_writeStr {s : State} (h : s.status.busy = false) (r : SReg) {b : Bytes} (hb : b.length ≤ s.cfg.strCap) :
    transact (.writeStr (strIndex r) b) s = { s with str := writeStr s.str r b } := by
  cases r <;> simp [transact, dropped, h, accept, acceptWriteStr, strIndex, sregOfIndex, Nat.not_lt.mpr hb]

/-- While an operation runs, a transaction is dropped, read or CLEAR: it leaves the registers and `BUSY` (R76, R179). -/
theorem transact_busy (t : Transaction) {s : State} (h : s.status.busy = true) :
    (transact t s).num = s.num ∧ (transact t s).str = s.str ∧ (transact t s).ent = s.ent ∧
      (transact t s).req = s.req ∧ (transact t s).cfg = s.cfg ∧ (transact t s).status.busy = true ∧
      (transact t s).out = s.out ∧ (transact t s).outLen = s.outLen := by
  cases t <;> simp [transact, dropped, h, accept]

theorem transact_cfg (t : Transaction) (s : State) : (transact t s).cfg = s.cfg := by
  unfold transact
  split
  · rfl
  · cases t <;> simp [accept]

end Sys2Proof.Machine
end

