-- ==== Sys2Proof/Laws/Operands.lean ====
section
/-! SUPPORT. The laws of the operand forms: byte orders, the scaled value, and what each field and component emits. -/

namespace Sys2Proof.Machine

@[simp] theorem le_length (v : Int) (n : Nat) : (le v n).length = n := by simp [le]

@[simp] theorem be_length (v : Int) (n : Nat) : (be v n).length = n := by simp [be]

@[simp] theorem zeros_length (n : Nat) : (zeros n).length = n := by simp [zeros]

/-- `LE` of one byte is that byte. -/
theorem le_one (v : Nat) : le v 1 = [BitVec.ofNat 8 v] := by
  have h : ((v : Int) % 256).toNat = v % 256 := by omega
  simp [le, patternByte, h]
  apply BitVec.eq_of_toNat_eq
  simp

/-- The scaled value exists exactly when input and product are finite. -/
theorem scaled_eq_some {c : Config} {w : Word64} {s : Nat} {m : Conversion} {q : Int} :
    scaled c w s m = some q ↔ ScaledTo c w s m q := by
  unfold scaled ScaledTo
  cases hx : binary64 w with
  | nan => simp
  | inf _ => simp
  | finite x =>
    cases hp : binary64 (scaleMul c w x s) with
    | nan => simp [hp]
    | inf _ => simp [hp]
    | finite p => simp [hp, eq_comm]

theorem scaled_eq_none {c : Config} {w : Word64} {s : Nat} {m : Conversion} :
    scaled c w s m = none ↔ NotScalable c w s := by
  unfold scaled NotScalable
  cases hx : binary64 w with
  | nan => simp
  | inf _ => simp
  | finite x =>
    cases hp : binary64 (scaleMul c w x s) with
    | nan => simp [hp]
    | inf _ => simp [hp]
    | finite p => simp [hp]

theorem fitsSigned_iff (n : Nat) (v : Int) :
    fitsSigned n v = true ↔ -((2 ^ (8 * n - 1) : Nat) : Int) ≤ v ∧ v < ((2 ^ (8 * n - 1) : Nat) : Int) := by
  simp [fitsSigned]

theorem fitsUnsigned_iff (n : Nat) (v : Int) :
    fitsUnsigned n v = true ↔ 0 ≤ v ∧ v < ((2 ^ (8 * n) : Nat) : Int) := by
  simp [fitsUnsigned]

/-- A signed scaled field inside its range emits its value little-endian. -/
theorem encodeSfix_inside {c : Config} {n s : Nat} {w : Word64} {f : Byte} {lo hi q : Int}
    (h : InsideRange c w s .trunc lo hi q) (hlo : lo = -((2 ^ (8 * n - 1) : Nat) : Int))
    (hhi : hi = ((2 ^ (8 * n - 1) : Nat) : Int) - 1) : encodeSfix c n s w f = .ok (le q n) := by
  have hq : fitsSigned n q = true := by rw [fitsSigned_iff]; have := h.2; omega
  simp [encodeSfix, scaled_eq_some.mpr h.1, hq]

theorem encodeSfix_outside {c : Config} {n s : Nat} {w : Word64} {f : Byte} {lo hi : Int}
    (h : OutsideRange c w s .trunc lo hi) (hlo : lo = -((2 ^ (8 * n - 1) : Nat) : Int))
    (hhi : hi = ((2 ^ (8 * n - 1) : Nat) : Int) - 1) : encodeSfix c n s w f = raiseInvalid f := by
  rcases h with h | ⟨q, h, hr⟩
  · simp [encodeSfix, scaled_eq_none.mpr h]
  · have hq : ¬ fitsSigned n q = true := by rw [fitsSigned_iff]; omega
    simp [encodeSfix, scaled_eq_some.mpr h, hq]

/-- An unsigned scaled field inside its range emits its value little-endian. -/
theorem encodeUfix_inside {c : Config} {n s : Nat} {w : Word64} {f : Byte} {hi q : Int}
    (h : InsideRange c w s .trunc 0 hi q) (hhi : hi = ((2 ^ (8 * n) : Nat) : Int) - 1) :
    encodeUfix c n s w f = .ok (le q n) := by
  have hq : fitsUnsigned n q = true := by rw [fitsUnsigned_iff]; have := h.2; omega
  simp [encodeUfix, scaled_eq_some.mpr h.1, hq]

theorem encodeUfix_outside {c : Config} {n s : Nat} {w : Word64} {f : Byte} {hi : Int}
    (h : OutsideRange c w s .trunc 0 hi) (hhi : hi = ((2 ^ (8 * n) : Nat) : Int) - 1) :
    encodeUfix c n s w f = raiseInvalid f := by
  rcases h with h | ⟨q, h, hr⟩
  · simp [encodeUfix, scaled_eq_none.mpr h]
  · have hq : ¬ fitsUnsigned n q = true := by rw [fitsUnsigned_iff]; omega
    simp [encodeUfix, scaled_eq_some.mpr h, hq]

/-- The smallest value a component's field holds. -/
def Component.lo (cp : Component) : Int := if cp.signed then -((2 ^ (8 * cp.n - 1) : Nat) : Int) else 0

/-- The largest value a component's field holds. -/
def Component.hi (cp : Component) : Int :=
  if cp.signed then ((2 ^ (8 * cp.n - 1) : Nat) : Int) - 1 else ((2 ^ (8 * cp.n) : Nat) : Int) - 1

/-- A component inside its range emits its value big-endian (R108). -/
theorem encodeComponent_inside {c : Config} {cp : Component} {w : Word64} {e : Byte} {q : Int}
    (h : InsideRange c w cp.scale cp.conv cp.lo cp.hi q) : encodeComponent c cp w e = .ok (be q cp.n) := by
  obtain ⟨h, hlo, hhi⟩ := h
  unfold encodeComponent
  rw [scaled_eq_some.mpr h]
  unfold Component.lo at hlo
  unfold Component.hi at hhi
  cases hs : cp.signed <;> simp only [hs, if_true, if_false, Bool.false_eq_true] at hlo hhi ⊢
  · rw [if_pos]
    rw [fitsUnsigned_iff]; omega
  · rw [if_pos]
    rw [fitsSigned_iff]; omega

/-- A component outside its range, or not finite, raises `VALUE_OUT_OF_RANGE(e)` (R108, R116). -/
theorem encodeComponent_outside {c : Config} {cp : Component} {w : Word64} {e : Byte}
    (h : OutsideRange c w cp.scale cp.conv cp.lo cp.hi) :
    encodeComponent c cp w e = .error (.raise .valueOutOfRange e) := by
  unfold encodeComponent
  rcases h with h | ⟨q, h, hr⟩
  · rw [scaled_eq_none.mpr h]
  · rw [scaled_eq_some.mpr h]
    unfold Component.lo Component.hi at hr
    cases hs : cp.signed <;> simp only [hs, if_true, if_false, Bool.false_eq_true] at hr ⊢
    · rw [if_neg]
      rw [fitsUnsigned_iff]; omega
    · rw [if_neg]
      rw [fitsSigned_iff]; omega

/-- Every scaled word is inside or outside a range. -/
theorem inside_or_outside (c : Config) (w : Word64) (s : Nat) (m : Conversion) (lo hi : Int) :
    (∃ q, InsideRange c w s m lo hi q) ∨ OutsideRange c w s m lo hi := by
  cases h : scaled c w s m with
  | none => exact .inr (.inl (scaled_eq_none.mp h))
  | some q =>
    by_cases hq : lo ≤ q ∧ q ≤ hi
    · exact .inl ⟨q, scaled_eq_some.mp h, hq.1, hq.2⟩
    · exact .inr (.inr ⟨q, scaled_eq_some.mp h, by omega⟩)

/-- A component's bytes are `n` (R109). -/
theorem encodeComponent_length {c : Config} {cp : Component} {w : Word64} {e : Byte} {b : Bytes}
    (h : encodeComponent c cp w e = .ok b) : b.length = cp.n := by
  unfold encodeComponent at h
  split at h
  · cases h
  · rename_i q _
    by_cases hf : (if cp.signed then fitsSigned cp.n q else fitsUnsigned cp.n q) = true
    · rw [if_pos hf] at h
      cases h
      exact be_length _ _
    · rw [if_neg hf] at h
      cases h

theorem encodeUint_eq {n : Nat} {w : Word64} {f : Byte} :
    (w.toNat < 2 ^ (8 * n) → encodeUint n w f = .ok (le w.toNat n)) ∧
      (2 ^ (8 * n) ≤ w.toNat → encodeUint n w f = raiseInvalid f) := by
  unfold encodeUint
  exact ⟨fun h => if_neg (by omega), fun h => if_pos h⟩

/-- The bytes a field can emit: its width (R95), with the length of the longest string for `TEXT`. -/
def fieldWidth (cap : Nat) : FieldKind → Nat
  | .const b => b.length
  | .uint n _ | .sfix n _ _ | .ufix n _ _ => n
  | .enum _ _ | .flag _ _ => 1
  | .text _ => cap
  | .padT _ width | .padX _ width | .raw _ width => width
  | .prefix6 _ => 6

/-- A field emits at most its width. -/
theorem encodeField_length {c : Config} {num : NumFile} {str : StrFile} {fd : FieldKind} {f : Byte} {b : Bytes} {cap : Nat}
    (hs : ∀ r x, readStr str r = some x → x.length ≤ cap) (h : encodeField c num str fd f = .ok b) :
    b.length ≤ fieldWidth cap fd := by
  have hn {r : NReg} {k : Word64 → Encoded} (hk : withNum num r k = .ok b) : ∃ w, k w = .ok b := by
    unfold withNum at hk
    split at hk
    · exact ⟨_, hk⟩
    · cases hk
  have hstr {r : SReg} {k : Bytes → Encoded} (hk : withStr str r k = .ok b) :
      ∃ x, x.length ≤ cap ∧ k x = .ok b := by
    unfold withStr at hk
    split at hk
    · rename_i x hx
      exact ⟨_, hs _ _ hx, hk⟩
    · cases hk
  cases fd with
  | const b' => cases h; exact Nat.le_refl _
  | uint n r =>
    obtain ⟨w, hw⟩ := hn h
    unfold encodeUint raiseInvalid at hw
    split_ifs at hw; cases hw; simp [fieldWidth]
  | enum r mx =>
    obtain ⟨w, hw⟩ := hn h
    unfold encodeEnum raiseInvalid at hw
    split_ifs at hw; cases hw; simp [fieldWidth]
  | flag r b' =>
    obtain ⟨w, hw⟩ := hn h
    unfold encodeFlag raiseInvalid at hw
    split_ifs at hw <;> cases hw <;> simp [fieldWidth]
  | sfix n r s =>
    obtain ⟨w, hw⟩ := hn h
    unfold encodeSfix raiseInvalid at hw
    split at hw
    · cases hw
    · split_ifs at hw; cases hw; simp [fieldWidth]
  | ufix n r s =>
    obtain ⟨w, hw⟩ := hn h
    unfold encodeUfix raiseInvalid at hw
    split at hw
    · cases hw
    · split_ifs at hw; cases hw; simp [fieldWidth]
  | text r =>
    obtain ⟨x, hx, hw⟩ := hstr h
    cases hw; exact hx
  | padT r width =>
    obtain ⟨x, _, hw⟩ := hstr h
    cases hw
    simp [fieldWidth, padTo]
  | padX r width =>
    obtain ⟨x, _, hw⟩ := hstr h
    unfold encodePadX raiseInvalid at hw
    split_ifs at hw; cases hw
    simp [fieldWidth, padTo]; omega
  | prefix6 r =>
    obtain ⟨x, _, hw⟩ := hstr h
    unfold encodePrefix6 raiseInvalid at hw
    split_ifs at hw; cases hw; simp [fieldWidth]
  | raw r width =>
    obtain ⟨x, _, hw⟩ := hstr h
    unfold encodeRaw raiseInvalid at hw
    split_ifs at hw with hl; cases hw; simp [fieldWidth, hl]

end Sys2Proof.Machine
end

