-- ==== Sys2Proof/Laws/Registry.lean ====
section
/-! SUPPORT. The laws of the two encoders: how a command completes, fails or faults by its row, and how long the bytes of fields, entries and frames can be. -/

namespace Sys2Proof.Machine

/-- The room that R6 to R8 leave in the output buffer. -/
theorem outCap_room {c : Config} (h : c.Ok) : 65 ≤ c.outCap ∧ 33 + c.strCap ≤ c.outCap ∧ 11 * c.lppSlots ≤ c.outCap := by
  obtain ⟨⟨h1, _⟩, _, h5, _⟩ := h
  have := Nat.max_le.mp h5
  omega

/-- A written row whose fields all encode completes with its opcode bytes and the fields' bytes (R86, R105). -/
theorem runCommand_completedWith {row : CmdRow} {s : State} {F bs : Bytes} (hc : s.cfg.Ok)
    (hw : rowWritten s.num s.str row = true) (he : encodeFields s.cfg s.num s.str row.fields 0 = .ok bs)
    (hl : (rowHead row ++ bs).length ≤ s.cfg.outCap) (hF : F = rowHead row ++ bs) :
    ∃ t, runCommand row s = .next t ∧ CompletedWith s F t := by
  unfold runCommand encodeCommand
  rw [if_pos hw, he, hF]
  exact complete_completedWith hc hl

/-- A written row with a field in error completes with that error (R87, R160). -/
theorem runCommand_failedWith {row : CmdRow} {s : State} {c : ErrorCode} {i : Byte} {n : BitVec 4}
    (hw : rowWritten s.num s.str row = true)
    (he : encodeFields s.cfg s.num s.str row.fields 0 = .error (.raise c i)) (hn : n = c.number) :
    ∃ t, runCommand row s = .next t ∧ FailedWith s n i t := by
  unfold runCommand encodeCommand
  rw [if_pos hw, he, hn]
  exact complete_failedWith _ _ _

/-- A row that names an unwritten register faults (R106, R164). -/
theorem runCommand_faults {row : CmdRow} {s : State} (hw : ¬rowWritten s.num s.str row = true) :
    runCommand row s = .fault .unwrittenArgument := by
  unfold runCommand encodeCommand
  rw [if_neg hw]
  rfl

/-- The fields of a row emit at most the sum of their widths. -/
theorem encodeFields_length {c : Config} {num : NumFile} {str : StrFile} {cap : Nat}
    (hs : ∀ r x, readStr str r = some x → x.length ≤ cap) (fields : List FieldKind) (f : Nat) (b : Bytes)
    (h : encodeFields c num str fields f = .ok b) : b.length ≤ (fields.map (fieldWidth cap)).sum := by
  induction fields generalizing f b with
  | nil => cases h; simp
  | cons fd rest ih =>
    unfold encodeFields at h
    split at h
    · cases h
    · rename_i b1 h1
      split at h
      · cases h
      · rename_i b2 h2
        cases h
        have := ih _ _ h2
        have := encodeField_length hs h1
        simp; omega

/-- Each row of the command registry is at most 33 bytes and one text long: `sendLogin` is the longest (R8). -/
theorem commandRegistry_width {row : CmdRow} (h : row ∈ commandRegistry) {cap : Nat} (hc : 32 ≤ cap) :
    (rowHead row).length + (row.fields.map (fieldWidth cap)).sum ≤ 33 + cap := by
  simp only [commandRegistry, List.cons_append, List.nil_append, List.mem_cons, List.not_mem_nil, or_false] at h
  rcases h with rfl | rfl | rfl | rfl | rfl | rfl | rfl | rfl | rfl | rfl | rfl | rfl | rfl | rfl | rfl | rfl | rfl |
    rfl | rfl | rfl | rfl | rfl | rfl | rfl | rfl | rfl | rfl | rfl
  all_goals
    simp [rowHead, fieldWidth, appStartRow, deviceQueryRow, getBatteryRow, getTimeRow, setTimeRow, setNameRow,
      setCoordsRow, setTxPowerRow, setRadioRow, sendAdvertisementRow, rebootRow, getContactsRow, getMessageRow,
      sendMessageRow, sendCommandRow, sendChannelMessageRow, sendLoginRow, sendLogoutRow, sendStatusRequestRow,
      getChannelRow, setChannelRow, getStatsRow, getSelfTelemetryRow, exportPrivateKeyRow, signStartRow,
      signFinishRow, pathDiscoveryRow, sendTraceRow]
    try omega

/-- The components of a row emit at most their widths together. -/
theorem encodeComponents_length {c : Config} {e : Byte} (comps : List Component) (ws : List Word64) (b : Bytes)
    (h : encodeComponents c e comps ws = .ok b) : b.length ≤ (comps.map Component.n).sum := by
  induction comps generalizing ws b with
  | nil => cases ws <;> (cases h; simp)
  | cons cp rest ih =>
    cases ws with
    | nil => cases h; simp
    | cons w ws =>
      unfold encodeComponents at h
      split at h
      · cases h
      · rename_i b1 h1
        split at h
        · cases h
        · rename_i b2 h2
          cases h
          have := ih _ _ h2
          have := encodeComponent_length h1
          simp; omega

/-- A component's encoder raises `VALUE_OUT_OF_RANGE(e)` or succeeds (R108). -/
theorem encodeComponent_result (c : Config) (cp : Component) (w : Word64) (e : Byte) :
    (∃ b, encodeComponent c cp w e = .ok b) ∨ encodeComponent c cp w e = .error (.raise .valueOutOfRange e) := by
  unfold encodeComponent
  split
  · exact .inr rfl
  · split_ifs
    all_goals first
      | exact .inl ⟨_, rfl⟩
      | exact .inr rfl

/-- The bytes of an entry are at most 11: GPS is the longest (R8, R109). -/
theorem entryBytes_length {c : Config} {en : Entry} {e : Byte} {F : Bytes} (h : entryBytes c en e = .ok F) :
    F.length ≤ 11 := by
  unfold entryBytes at h
  split at h
  · cases h
  · rename_i row hrow
    unfold encodeSensor at h
    split at h
    · cases h
    · rename_i bs hb
      cases h
      have h1 := encodeComponents_length _ _ _ hb
      have h2 : (row.comps.map Component.n).sum ≤ 9 := by
        have hm : row ∈ sensorRegistry := List.mem_of_getElem? hrow
        clear hrow hb h1
        revert row
        decide
      simp only [List.length_cons]
      omega

theorem encodeEntry_length {c : Config} {ent : EntryFile} {k : Byte} {F : Bytes} (h : encodeEntry c ent k = .ok F) :
    F.length ≤ 11 := by
  unfold encodeEntry at h
  split at h
  · cases h
  · exact entryBytes_length h

theorem encodeEntries_length {c : Config} {ent : EntryFile} (n i : Nat) (F : Bytes)
    (h : encodeEntries c ent i n = .ok F) : F.length ≤ 11 * n := by
  induction n generalizing i F with
  | zero => cases h; simp
  | succ n ih =>
    unfold encodeEntries at h
    split at h
    · cases h
    · rename_i b1 h1
      split at h
      · cases h
      · rename_i b2 h2
        cases h
        have := ih _ _ h2
        have := encodeEntry_length h1
        simp; omega

/-- What the request `LPP.ENTRY k` and the sensor row itself do with a written entry of that sensor kind (log entry 12). -/
theorem exec_sensor {row : SensorRow} {s : State} {k : Byte} {en : Entry} {w : ReqWord} (hk : k.toNat < s.cfg.lppSlots)
    (he : readEntry s.ent k.toNat = some en) (hw : s.req = some w) (ha : reqArg w = k)
    (hrow : sensorRegistry[en.sk.toNat]? = some row) :
    exec (.lppEntry k) s = complete (encodeSensor row en.ch s.cfg en k) s ∧
      runSensor row en.ch s = complete (encodeSensor row en.ch s.cfg en k) s := by
  constructor
  · simp [exec, execLppEntry, Nat.not_le.mpr hk, encodeEntry, he, entryBytes, hrow]
  · simp [runSensor, requestWord_some hw, ha, Nat.not_le.mpr hk, he]

end Sys2Proof.Machine
end

