-- ==== Sys2Proof/Laws/Engine.lean ====
section
/-! SUPPORT. The laws of the engine: what its completion step can leave, and that the engine's dispatch by instruction is the registry's lookup by kind identifier. -/

namespace Sys2Proof.Machine

/-- A kind identifier's instruction runs the registry row of that index (R63, R94). -/
theorem commandOfKind_row {k : Nat} {i : Instr} (h : commandOfKind k = some i) :
    ∃ row, commandRegistry[k]? = some row ∧ ∀ s, exec i s = runCommand row s := by
  unfold commandOfKind at h
  split at h <;> first | (cases h; exact ⟨_, rfl, fun _ => rfl⟩) | cases h

theorem commandOfKind_isSome {k : Nat} : (∃ i, commandOfKind k = some i) ↔ k < 28 := by
  constructor
  · rintro ⟨i, h⟩
    unfold commandOfKind at h
    split at h <;> first | omega | cases h
  · intro h
    interval_cases k <;> exact ⟨_, rfl⟩

theorem commandOfKind_none {k : Nat} (h : commandOfKind k = none) : commandRegistry[k]? = none := by
  have : 28 ≤ k := by
    by_contra hk
    obtain ⟨i, hi⟩ := commandOfKind_isSome.mpr (by omega : k < 28)
    simp [hi] at h
  simp [commandRegistry]
  omega

/-- Everything the engine can do with a request when it does not fault: complete with a frame that fits, or with an error. -/
theorem performRequest_result {s t : State} (h : performRequest s = .next t) : EngineResult s t := by
  unfold performRequest at h
  split at h
  · exact exec_result h
  · cases h
    exact .inr ⟨_, _, rfl⟩

/-- The engine's event in a busy LFS. -/
theorem react_engine_busy {s : State} (h : s.status.busy = true) : react .engine s = performRequest s := by
  simp [react, engineEvent, h]

/-- The engine's event in an idle LFS passes without effect (log entry 9). -/
theorem react_engine_idle {s : State} (h : s.status.busy = false) : react .engine s = .next s := by
  simp [react, engineEvent, h]

/-- One event leaves the configuration. -/
theorem react_cfg {s t : State} (ev : Event) (h : react ev s = .next t) : t.cfg = s.cfg := by
  cases ev with
  | host x => cases h; exact transact_cfg _ _
  | reset => cases h; rfl
  | engine =>
    change engineEvent s = _ at h
    unfold engineEvent at h
    split at h
    · rcases performRequest_result h with ⟨F, _, rfl⟩ | ⟨c, i, rfl⟩ <;> rfl
    · cases h; rfl

end Sys2Proof.Machine
end

