-- ==== Sys2Proof/Laws/PerInstr.lean ====
section
/-! SUPPORT. The family `TableEncoding`, one lemma per instruction: its encoded word has the length, the fixed bits and the operand bits that spec/opcode_table.json gives its row. -/

namespace Sys2Proof.Laws.TableEncoding

/-- A row of spec/opcode_table.json: bits of the word, the mask of its fixed bits, their values, and the operand with the bit it starts at. -/
structure TableRow where
  nbits : Nat
  mask : Nat
  fixed : Nat
  operand : Option (Nat × Byte)

/-- A row with no operand. -/
def plainRow (fixed : Nat) : TableRow := { nbits := 32, mask := 0xFFFFFFFF, fixed := fixed, operand := none }

/-- A request row whose operand is `ARG`, bits 23:16. -/
def argRow (fixed : Nat) (x : Byte) : TableRow := { nbits := 32, mask := 0xFF00FFFF, fixed := fixed, operand := some (16, x) }

/-- An entry descriptor row, whose operand is `CH`, bits 7:0. -/
def channelRow (fixed : Nat) (x : Byte) : TableRow := { nbits := 16, mask := 0xFF00, fixed := fixed, operand := some (0, x) }

/-- The opcode table's row of an instruction. -/
def tableRow : Instr → TableRow
  | .appStart => plainRow 0x00000000
  | .deviceQuery => plainRow 0x00000100
  | .getBattery => plainRow 0x00000200
  | .getTime => plainRow 0x00000300
  | .setTime => plainRow 0x00000400
  | .setName => plainRow 0x00000500
  | .setCoords => plainRow 0x00000600
  | .setTxPower => plainRow 0x00000700
  | .setRadio => plainRow 0x00000800
  | .sendAdvertisement => plainRow 0x00000900
  | .reboot => plainRow 0x00000A00
  | .getContacts => plainRow 0x00000B00
  | .getMessage => plainRow 0x00000C00
  | .sendMessage => plainRow 0x00000D00
  | .sendCommand => plainRow 0x00000E00
  | .sendChannelMessage => plainRow 0x00000F00
  | .sendLogin => plainRow 0x00001000
  | .sendLogout => plainRow 0x00001100
  | .sendStatusRequest => plainRow 0x00001200
  | .getChannel => plainRow 0x00001300
  | .setChannel => plainRow 0x00001400
  | .getStats => plainRow 0x00001500
  | .getSelfTelemetry => plainRow 0x00001600
  | .exportPrivateKey => plainRow 0x00001700
  | .signStart => plainRow 0x00001800
  | .signFinish => plainRow 0x00001900
  | .pathDiscovery => plainRow 0x00001A00
  | .sendTrace => plainRow 0x00001B00
  | .lppEntry x => argRow 0x00000001 x
  | .lppFrame x => argRow 0x00000002 x
  | .temp x => channelRow 0x0000 x
  | .hum x => channelRow 0x0100 x
  | .analog x => channelRow 0x0200 x
  | .gps x => channelRow 0x0300 x
  | .baro x => channelRow 0x0400 x
  | .accel x => channelRow 0x0500 x

/-- The bits of a word and how many there are. -/
def wordBits : InstrWord → Nat × Nat
  | .req w => (32, w.toNat)
  | .entry ew => (16, ew.toNat)

/-- The word `(nbits, w)` is a word of the row. -/
def Matches (p : Nat × Nat) (r : TableRow) : Prop :=
  p.1 = r.nbits ∧ p.2 &&& r.mask = r.fixed ∧ ∀ at_ x, r.operand = some (at_, x) → p.2 / 2 ^ at_ % 256 = x.toNat

/-- The encoded word of the instruction is a word of its row of the opcode table. -/
def Statement (i : Instr) : Prop := Matches (wordBits (encode i)) (tableRow i)

theorem statement_plain {i : Instr} {kind : Byte} {fixed : Nat} (he : encode i = .req (reqWord 0 kind 0))
    (hr : tableRow i = plainRow fixed) (hw : (reqWord 0 kind 0).toNat = fixed) (hm : fixed &&& 0xFFFFFFFF = fixed) :
    Statement i := by
  unfold Statement
  rw [he, hr]
  exact ⟨rfl, by rw [← hw] at hm ⊢; exact hm, fun _ _ e => by cases e⟩

theorem reqWord_bits (unit : BitVec 2) (arg : Byte) : (reqWord unit 0 arg).toNat &&& 0xFF00FFFF = unit.toNat := by
  revert unit arg; decide

theorem entryWord_bits (k : Fin 6) (ch : Byte) :
    (entryWord (BitVec.ofNat 8 k) ch).toNat &&& 0xFF00 = 2 ^ 8 * k.val := by
  revert k ch; decide

theorem statement_arg {i : Instr} {unit : BitVec 2} {x : Byte} (he : encode i = .req (reqWord unit 0 x))
    (hr : tableRow i = argRow unit.toNat x) : Statement i := by
  unfold Statement
  rw [he, hr]
  refine ⟨rfl, reqWord_bits unit x, fun p y e => ?_⟩
  cases e
  have := unit.isLt
  show (reqWord unit 0 x).toNat / 2 ^ 16 % 256 = x.toNat
  rw [← reqArg_toNat, reqArg_reqWord]

theorem statement_channel {i : Instr} (k : Fin 6) {ch : Byte} (he : encode i = .entry (entryWord (BitVec.ofNat 8 k) ch))
    (hr : tableRow i = channelRow (2 ^ 8 * k.val) ch) : Statement i := by
  unfold Statement
  rw [he, hr]
  refine ⟨rfl, entryWord_bits k ch, fun p y e => ?_⟩
  cases e
  show (entryWord (BitVec.ofNat 8 k) ch).toNat / 2 ^ 0 % 256 = ch.toNat
  rw [Nat.pow_zero, Nat.div_one, ← entryCh_toNat, entryCh_entryWord]

theorem appStart : Statement .appStart := statement_plain rfl rfl rfl rfl

theorem deviceQuery : Statement .deviceQuery := statement_plain rfl rfl rfl rfl

theorem getBattery : Statement .getBattery := statement_plain rfl rfl rfl rfl

theorem getTime : Statement .getTime := statement_plain rfl rfl rfl rfl

theorem setTime : Statement .setTime := statement_plain rfl rfl rfl rfl

theorem setName : Statement .setName := statement_plain rfl rfl rfl rfl

theorem setCoords : Statement .setCoords := statement_plain rfl rfl rfl rfl

theorem setTxPower : Statement .setTxPower := statement_plain rfl rfl rfl rfl

theorem setRadio : Statement .setRadio := statement_plain rfl rfl rfl rfl

theorem sendAdvertisement : Statement .sendAdvertisement := statement_plain rfl rfl rfl rfl

theorem reboot : Statement .reboot := statement_plain rfl rfl rfl rfl

theorem getContacts : Statement .getContacts := statement_plain rfl rfl rfl rfl

theorem getMessage : Statement .getMessage := statement_plain rfl rfl rfl rfl

theorem sendMessage : Statement .sendMessage := statement_plain rfl rfl rfl rfl

theorem sendCommand : Statement .sendCommand := statement_plain rfl rfl rfl rfl

theorem sendChannelMessage : Statement .sendChannelMessage := statement_plain rfl rfl rfl rfl

theorem sendLogin : Statement .sendLogin := statement_plain rfl rfl rfl rfl

theorem sendLogout : Statement .sendLogout := statement_plain rfl rfl rfl rfl

theorem sendStatusRequest : Statement .sendStatusRequest := statement_plain rfl rfl rfl rfl

theorem getChannel : Statement .getChannel := statement_plain rfl rfl rfl rfl

theorem setChannel : Statement .setChannel := statement_plain rfl rfl rfl rfl

theorem getStats : Statement .getStats := statement_plain rfl rfl rfl rfl

theorem getSelfTelemetry : Statement .getSelfTelemetry := statement_plain rfl rfl rfl rfl

theorem exportPrivateKey : Statement .exportPrivateKey := statement_plain rfl rfl rfl rfl

theorem signStart : Statement .signStart := statement_plain rfl rfl rfl rfl

theorem signFinish : Statement .signFinish := statement_plain rfl rfl rfl rfl

theorem pathDiscovery : Statement .pathDiscovery := statement_plain rfl rfl rfl rfl

theorem sendTrace : Statement .sendTrace := statement_plain rfl rfl rfl rfl

theorem lppEntry (k : Byte) : Statement (.lppEntry k) := statement_arg (unit := 1) rfl rfl

theorem lppFrame (n : Byte) : Statement (.lppFrame n) := statement_arg (unit := 2) rfl rfl

theorem temp (ch : Byte) : Statement (.temp ch) := statement_channel 0 rfl rfl

theorem hum (ch : Byte) : Statement (.hum ch) := statement_channel 1 rfl rfl

theorem analog (ch : Byte) : Statement (.analog ch) := statement_channel 2 rfl rfl

theorem gps (ch : Byte) : Statement (.gps ch) := statement_channel 3 rfl rfl

theorem baro (ch : Byte) : Statement (.baro ch) := statement_channel 4 rfl rfl

theorem accel (ch : Byte) : Statement (.accel ch) := statement_channel 5 rfl rfl

end Sys2Proof.Laws.TableEncoding
end

