-- ==== Sys2Proof/Machine/Assembler.lean ====
section
/-! DEFINITION. The assembly text of host programs (R72), read line by line into the terms of HostProgram.lean. A line that is none of the listed forms reads as nothing (log entry 19). -/

namespace Sys2Proof.Machine

/-- A line of text. -/
abbrev Text := List Char

/-- The text without its leading blanks. -/
def dropBlanks : Text → Text
  | [] => []
  | c :: rest => if c = ' ' ∨ c = '\t' then dropBlanks rest else c :: rest

/-- The text without its leading and trailing blanks. -/
def trimText (t : Text) : Text := (dropBlanks (dropBlanks t).reverse).reverse

/-- The text before a `;` that stands outside quotes: `;` starts a comment (R72). -/
def cutComment (quoted : Bool) : Text → Text
  | [] => []
  | c :: rest =>
    if c = '"' then c :: cutComment (!quoted) rest
    else if c = ';' ∧ quoted = false then []
    else c :: cutComment quoted rest

/-- The operands of a line: the texts between commas outside quotes. -/
def splitOperands (quoted : Bool) (acc : Text) : Text → List Text
  | [] => [trimText acc.reverse]
  | c :: rest =>
    if c = '"' then splitOperands (!quoted) (c :: acc) rest
    else if c = ',' ∧ quoted = false then trimText acc.reverse :: splitOperands quoted [] rest
    else splitOperands quoted (c :: acc) rest

/-- The text after the head `p`, if it begins with `p`. -/
def afterHead (p t : Text) : Option Text :=
  match p, t with
  | [], rest => some rest
  | a :: p', b :: rest => if a = b then afterHead p' rest else none
  | _ :: _, [] => none

/-- The value of a digit in a base up to 16. -/
def digitValue (base : Nat) (c : Char) : Option Nat :=
  let d :=
    if '0' ≤ c ∧ c ≤ '9' then c.toNat - '0'.toNat
    else if 'a' ≤ c ∧ c ≤ 'f' then c.toNat - 'a'.toNat + 10
    else if 'A' ≤ c ∧ c ≤ 'F' then c.toNat - 'A'.toNat + 10
    else base
  if d < base then some d else none

/-- The number that all the digits of a text make after `acc`. -/
def allDigits (base acc : Nat) : Text → Option Nat
  | [] => some acc
  | c :: rest =>
    match digitValue base c with
    | some d => allDigits base (acc * base + d) rest
    | none => none

/-- A number: decimal, or hex with a `0x` in front (R72). -/
def numberOf (t : Text) : Option Nat :=
  match afterHead "0x".toList t with
  | some [] => none
  | some h => allDigits 16 0 h
  | none => if t = [] then none else allDigits 10 0 t

/-- A number below `bound`. -/
def numberBelow (bound : Nat) (t : Text) : Option Nat :=
  match numberOf t with
  | some n => if n < bound then some n else none
  | none => none

/-- A hex number below `bound`, with or without `0x`, as after `raw:`. -/
def hexBelow (bound : Nat) (t : Text) : Option Nat :=
  let h := (afterHead "0x".toList t).getD t
  match if h = [] then none else allDigits 16 0 h with
  | some n => if n < bound then some n else none
  | none => none

/-- The leading decimal digits of a text, appended to the number `acc`: the number, how many digits, and the rest. -/
def leadingDigits (acc count : Nat) : Text → Nat × Nat × Text
  | [] => (acc, count, [])
  | c :: rest =>
    match digitValue 10 c with
    | some d => leadingDigits (acc * 10 + d) (count + 1) rest
    | none => (acc, count, c :: rest)

/-- A signed decimal exponent. -/
def exponentOf (t : Text) : Option Int :=
  match afterHead "-".toList t with
  | some r => if r = [] then none else (allDigits 10 0 r).map (fun n => -(n : Int))
  | none =>
    let r := (afterHead "+".toList t).getD t
    if r = [] then none else (allDigits 10 0 r).map (fun n => (n : Int))

/-- A real literal: a decimal with `.` or `e` (R18, R72). -/
def realOf (t : Text) : Option NumLiteral :=
  if ¬(t.contains '.' ∨ t.contains 'e') then none
  else
    let neg := (afterHead "-".toList t).isSome
    let whole := leadingDigits 0 0 ((afterHead "-".toList t).getD t)
    let part :=
      match afterHead ".".toList whole.2.2 with
      | some r => leadingDigits whole.1 0 r
      | none => (whole.1, 0, whole.2.2)
    if whole.2.1 + part.2.1 = 0 then none
    else
      match part.2.2 with
      | [] => some (.real neg part.1 (-(part.2.1 : Int)))
      | c :: r => if c = 'e' then (exponentOf r).map (fun e => .real neg part.1 (e - part.2.1)) else none

/-- A numeric literal of `WN` (R72). -/
def numLiteralOf (t : Text) : Option NumLiteral :=
  match afterHead "raw:".toList t with
  | some h => (hexBelow (2 ^ 64) h).map (fun n => .raw (BitVec.ofNat 64 n))
  | none =>
    match numberBelow (2 ^ 64) t with
    | some n => some (.int n)
    | none => realOf t

/-- The bytes of a list of two-digit hex numbers with blanks between. -/
def hexBytes : Text → Option Bytes
  | [] => some []
  | a :: rest =>
    if a = ' ' then hexBytes rest
    else
      match rest with
      | [] => none
      | b :: more =>
        match digitValue 16 a, digitValue 16 b, hexBytes more with
        | some x, some y, some bs => some (BitVec.ofNat 8 (16 * x + y) :: bs)
        | _, _, _ => none

/-- A string literal of `WS` (R72). -/
def strLiteralOf (t : Text) : Option StrLiteral :=
  match afterHead "hex:".toList t with
  | some h => (hexBytes h).map .hex
  | none =>
    match afterHead ['"'] t with
    | some r =>
      match r.reverse with
      | q :: body => if q = '"' ∧ ¬body.contains '"' then some (.text body.reverse) else none
      | [] => none
    | none => none

/-- The place of a name in a list of names. -/
def nameIndex (names : List String) (t : Text) : Option Nat :=
  match names with
  | [] => none
  | n :: rest => if n.toList = t then some 0 else (nameIndex rest t).map (· + 1)

/-- The command names, in the order of their kind identifiers (R63). -/
def commandNames : List String :=
  ["appStart", "deviceQuery", "getBattery", "getTime", "setTime", "setName", "setCoords", "setTxPower", "setRadio"] ++
  ["sendAdvertisement", "reboot", "getContacts", "getMessage", "sendMessage", "sendCommand", "sendChannelMessage"] ++
  ["sendLogin", "sendLogout", "sendStatusRequest", "getChannel", "setChannel", "getStats", "getSelfTelemetry"] ++
  ["exportPrivateKey", "signStart", "signFinish", "pathDiscovery", "sendTrace"]

/-- The sensor of a name (R72). -/
def sensorOfName (t : Text) : Option SensorName :=
  match nameIndex ["TEMP", "HUM", "ANALOG", "GPS", "BARO", "ACCEL"] t with
  | some 0 => some .TEMP
  | some 1 => some .HUM
  | some 2 => some .ANALOG
  | some 3 => some .GPS
  | some 4 => some .BARO
  | some 5 => some .ACCEL
  | _ => none

/-- A register operand: its letter and its index, 0 to 255 (R68, R72). -/
def registerOf (letter : Char) (t : Text) : Option Byte :=
  match afterHead [letter] t with
  | some r => (numberBelow 256 r).map (BitVec.ofNat 8 ·)
  | none => none

/-- The operand of `START` (R72). -/
def startOf (t : Text) : Option AsmLine :=
  match afterHead "CMD.".toList t, afterHead "LPP.ENTRY ".toList t, afterHead "LPP.FRAME ".toList t, afterHead "raw:".toList t with
  | some name, _, _, _ =>
    match nameIndex commandNames name with
    | some k => (commandOfKind k).map .start
    | none => none
  | none, some r, _, _ => (registerOf 'E' (trimText r)).map (fun k => .start (.lppEntry k))
  | none, none, some r, _ => (numberBelow 256 (trimText r)).map (fun n => .start (.lppFrame (BitVec.ofNat 8 n)))
  | none, none, none, some h => (hexBelow (2 ^ 32) h).map (fun n => .startRaw (BitVec.ofNat 32 n))
  | none, none, none, none => none

/-- The operands of `WE`: register, channel, sensor and one or three reals (R72). -/
def entryLineOf (operands : List Text) : Option AsmLine :=
  let head (k ch sensor : Text) (c0 : Text) (c12 : Option (NumLiteral × NumLiteral)) : Option AsmLine :=
    match registerOf 'E' k, (afterHead "ch=".toList ch).bind (numberBelow 256), sensorOfName sensor, realOf c0 with
    | some k, some ch, some s, some x => some (.we k (BitVec.ofNat 8 ch) s x c12)
    | _, _, _, _ => none
  match operands with
  | [k, ch, s, x] => head k ch s x none
  | [k, ch, s, x, y, z] =>
    match realOf y, realOf z with
    | some y, some z => head k ch s x (some (y, z))
    | _, _ => none
  | _ => none

/-- The word of a line before its first blank, and the rest. -/
def splitWord (acc : Text) : Text → Text × Text
  | [] => (acc.reverse, [])
  | c :: rest => if c = ' ' ∨ c = '\t' then (acc.reverse, rest) else splitWord (c :: acc) rest

/-- A line that is not blank (R72). `POLL` is read with the number of busy reads of the run (log entry 18). -/
def instructionOf (busyReads : Nat) (t : Text) : Option AsmLine :=
  let w := (splitWord [] t).1
  let rest := trimText (splitWord [] t).2
  let operands := splitOperands false [] rest
  match nameIndex ["WN", "WS", "WE", "START", "RS", "RL", "RB", "CLR", "POLL"] w, operands with
  | some 0, [r, v] =>
    match registerOf 'N' r, numLiteralOf v with
    | some i, some v => some (.wn i v)
    | _, _ => none
  | some 1, [r, v] =>
    match registerOf 'S' r, strLiteralOf v with
    | some j, some v => some (.ws j v)
    | _, _ => none
  | some 2, ops => entryLineOf ops
  | some 3, [r] => startOf r
  | some 4, [[]] => some .rs
  | some 5, [[]] => some .rl
  | some 6, [a] => (numberBelow (2 ^ 16) a).map (fun n => .rb (BitVec.ofNat 16 n))
  | some 7, [[]] => some .clr
  | some 8, [[]] => some (.poll busyReads)
  | _, _ => none

/-- A line of text: no instruction if it is blank or a comment, one if it is of a listed form (R72). -/
def parseLine (busyReads : Nat) (t : Text) : Option (List AsmLine) :=
  match trimText (cutComment false t) with
  | [] => some []
  | c :: rest => (instructionOf busyReads (c :: rest)).map ([·])

/-- A program: one transaction per line (R72). -/
def parseProgram (busyReads : Nat) : List Text → Option (List AsmLine)
  | [] => some []
  | l :: ls =>
    match parseLine busyReads l, parseProgram busyReads ls with
    | some a, some b => some (a ++ b)
    | _, _ => none

/-- The events of a program text, if every line is of a listed form. -/
def textEvents (busyReads : Nat) (lines : List Text) : Option (List Event) :=
  (parseProgram busyReads lines).bind programEvents

end Sys2Proof.Machine
end

