-- ==== Sys2Proof/Tests/Slice0.lean ====
section
/-! SUPPORT. The author's tests: ill-formed terms, words written out from the spec's tables, one step of each instruction on the spec's own vectors (95_test_vectors.md), and a witness for the hypotheses of each statement of Certificates/Slice0/Obligations.lean. -/

namespace Sys2Proof.Tests

open Sys2Proof Sys2Proof.Machine

/-! ## Helpers -/

def noNum : NumFile := { n0 := none, n1 := none, n2 := none, n3 := none }
def noStr : StrFile := { s0 := none, s1 := none }
def num1 (a : Word64) : NumFile := { noNum with n0 := some a }
def num2 (a b : Word64) : NumFile := { num1 a with n1 := some b }
def num3 (a b c : Word64) : NumFile := { num2 a b with n2 := some c }
def num4 (a b c d : Word64) : NumFile := { num3 a b c with n3 := some d }
def str1 (a : Bytes) : StrFile := { s0 := some a, s1 := none }
def str2 (a b : Bytes) : StrFile := { s0 := some a, s1 := some b }

/-- The vectors' LFS, idle after reset, with these argument registers. -/
def idle (num : NumFile) (str : StrFile) (ent : EntryFile) : State := { State.reset with num := num, str := str, ent := ent }

/-- The same, with the request `w` accepted and no event left but the engine's. -/
def busy (w : ReqWord) (num : NumFile) (str : StrFile) (ent : EntryFile) : State := acceptStart w (idle num str ent)

/-- STATUS and the frame after a step. -/
def result (o : Host.Outcome State Fault Refusal) : Option (Nat × Bytes) :=
  match o with
  | .next t => some ((statusWord t.status).toNat, (List.range t.outLen.toNat).map (fun a => readOut t (BitVec.ofNat 16 a)))
  | .fault _ => none
  | .refused _ => none

/-- STATUS and the frame that the request `w` gives. -/
def run1 (w : ReqWord) (num : NumFile) (str : StrFile) (ent : EntryFile) : Option (Nat × Bytes) := result (step (busy w num str ent))

/-- What the outcome is, without the state. -/
def stops (o : Host.Outcome State Fault Refusal) : Option Fault :=
  match o with
  | .next _ => none
  | .fault f => some f
  | .refused _ => none

/-- The state of a next outcome. -/
def next? (o : Host.Outcome State Fault Refusal) : Option State :=
  match o with
  | .next t => some t
  | .fault _ => none
  | .refused _ => none

theorem next_of {o : Host.Outcome State Fault Refusal} {t : State} (h : next? o = some t) : o = .next t := by
  unfold next? at h
  split at h <;> simp_all

theorem exists_next {o : Host.Outcome State Fault Refusal} (h : (next? o).isSome = true) : ∃ t, o = .next t := by
  obtain ⟨t, ht⟩ := Option.isSome_iff_exists.mp h
  exact ⟨t, next_of ht⟩

/-- The six-byte destination of the vectors. -/
def dest6 : Bytes := [0xA1, 0xB2, 0xC3, 0xD4, 0xE5, 0xF6]

/-! ## Well-formedness: what the checks refuse -/

theorem test_ill_formed_entry_index : (Instr.lppEntry 16).wellFormed Config.vectors = false := by decide
theorem test_well_formed_entry_index : (Instr.lppEntry 15).wellFormed Config.vectors = true := by decide
theorem test_ill_formed_frame_count : (Instr.lppFrame 17).wellFormed Config.vectors = false := by decide
theorem test_well_formed_frame_count : (Instr.lppFrame 16).wellFormed Config.vectors = true := by decide
theorem test_ill_formed_num_index : (Transaction.writeNum 4 0).wellFormed Config.vectors = false := by decide
theorem test_ill_formed_str_index : (Transaction.writeStr 2 []).wellFormed Config.vectors = false := by decide
theorem test_ill_formed_str_length : (Transaction.writeStr 0 (zeros 33)).wellFormed { Config.vectors with strCap := 32 } = false := by decide
theorem test_ill_formed_entry_write : (Transaction.writeEntry 16 0 0 0 0).wellFormed Config.vectors = false := by decide

/-! ## Decoding: the words of R56, R62, R63 and R66, written out -/

theorem test_decode_device :
    decodeReq 0x00000000 = .ok .appStart ∧ decodeReq 0x00000100 = .ok .deviceQuery ∧ decodeReq 0x00000200 = .ok .getBattery ∧
    decodeReq 0x00000300 = .ok .getTime ∧ decodeReq 0x00000400 = .ok .setTime ∧ decodeReq 0x00000500 = .ok .setName ∧
    decodeReq 0x00000600 = .ok .setCoords ∧ decodeReq 0x00000700 = .ok .setTxPower ∧ decodeReq 0x00000800 = .ok .setRadio ∧
    decodeReq 0x00000900 = .ok .sendAdvertisement ∧ decodeReq 0x00000A00 = .ok .reboot := by
  refine ⟨?_, ?_, ?_, ?_, ?_, ?_, ?_, ?_, ?_, ?_, ?_⟩ <;> rfl

theorem test_decode_messaging :
    decodeReq 0x00000B00 = .ok .getContacts ∧ decodeReq 0x00000C00 = .ok .getMessage ∧
    decodeReq 0x00000D00 = .ok .sendMessage ∧ decodeReq 0x00000E00 = .ok .sendCommand ∧
    decodeReq 0x00000F00 = .ok .sendChannelMessage ∧ decodeReq 0x00001000 = .ok .sendLogin ∧
    decodeReq 0x00001100 = .ok .sendLogout ∧ decodeReq 0x00001200 = .ok .sendStatusRequest := by
  refine ⟨?_, ?_, ?_, ?_, ?_, ?_, ?_, ?_⟩ <;> rfl

theorem test_decode_channel :
    decodeReq 0x00001300 = .ok .getChannel ∧ decodeReq 0x00001400 = .ok .setChannel ∧ decodeReq 0x00001500 = .ok .getStats ∧
    decodeReq 0x00001600 = .ok .getSelfTelemetry ∧ decodeReq 0x00001700 = .ok .exportPrivateKey ∧
    decodeReq 0x00001800 = .ok .signStart ∧ decodeReq 0x00001900 = .ok .signFinish ∧
    decodeReq 0x00001A00 = .ok .pathDiscovery ∧ decodeReq 0x00001B00 = .ok .sendTrace := by
  refine ⟨?_, ?_, ?_, ?_, ?_, ?_, ?_, ?_, ?_⟩ <;> rfl

theorem test_decode_lpp :
    decodeReq 0x00070001 = .ok (.lppEntry 7) ∧ decodeReq 0x00100002 = .ok (.lppFrame 16) ∧
    decodeEntry 0x0001 = .ok (.temp 1) ∧ decodeEntry 0x0102 = .ok (.hum 2) ∧ decodeEntry 0x0203 = .ok (.analog 3) ∧
    decodeEntry 0x0304 = .ok (.gps 4) ∧ decodeEntry 0x0405 = .ok (.baro 5) ∧ decodeEntry 0x05FF = .ok (.accel 255) := by
  refine ⟨?_, ?_, ?_, ?_, ?_, ?_, ?_, ?_⟩ <;> rfl

/-- Vectors V-Q1 to V-Q7, V-Q12 and the descriptor of V-L31: each rejected by name. -/
theorem test_decode_rejects :
    decodeReq 0x00001C00 = .error .unknownCommandKind ∧ decodeReq 0x0000FF00 = .error .unknownCommandKind ∧
    decodeReq 0x00000003 = .error .reservedUnit ∧ decodeReq 0x00000404 = .error .reservedBits ∧
    decodeReq 0x01000400 = .error .reservedBits ∧ decodeReq 0x00010400 = .error .cmdArgNotZero ∧
    decodeReq 0x00000101 = .error .lppKindNotZero ∧ decodeReq 0xFF001C03 = .error .reservedBits ∧
    decodeEntry 0x0609 = .error .unsupportedSensorKind := by
  refine ⟨?_, ?_, ?_, ?_, ?_, ?_, ?_, ?_, ?_⟩ <;> rfl

theorem test_table_words : decodeTableWord 32 0x00000400 = some .setTime ∧ decodeTableWord 16 0x0304 = some (.gps 4) ∧
    decodeTableWord 32 0x00001C00 = none ∧ decodeTableWord 8 0 = none := by
  refine ⟨?_, ?_, ?_, ?_⟩ <;> rfl

/-! ## One step of each instruction, on the spec's vectors -/

/-- V-C1. -/
theorem test_appStart : run1 0x00000000 noNum (str1 [0x6D, 0x63, 0x63, 0x6C, 0x69]) [] =
    some (2, [0x01, 0x03, 0x20, 0x20, 0x20, 0x20, 0x20, 0x20, 0x6D, 0x63, 0x63, 0x6C, 0x69]) := by decide
/-- V-C3: padded. -/
theorem test_appStart_pads : run1 0x00000000 noNum (str1 [0x61, 0x62]) [] =
    some (2, [0x01, 0x03, 0x20, 0x20, 0x20, 0x20, 0x20, 0x20, 0x61, 0x62, 0, 0, 0]) := by decide
/-- V-C5. -/
theorem test_deviceQuery : run1 0x00000100 noNum noStr [] = some (2, [0x16, 0x03]) := by decide
theorem test_getBattery : run1 0x00000200 noNum noStr [] = some (2, [0x14]) := by decide
theorem test_getTime : run1 0x00000300 noNum noStr [] = some (2, [0x05]) := by decide
/-- V-C6, V-C8. -/
theorem test_setTime : run1 0x00000400 (num1 1704067200) noStr [] = some (2, [0x06, 0x80, 0x00, 0x92, 0x65]) := by decide
theorem test_setTime_too_wide : run1 0x00000400 (num1 4294967296) noStr [] = some (0x26, []) := by decide
/-- V-C9. -/
theorem test_setName : run1 0x00000500 noNum (str1 [0x4E, 0x6F, 0x64, 0x65, 0x31]) [] =
    some (2, [0x08, 0x4E, 0x6F, 0x64, 0x65, 0x31]) := by decide
/-- V-C10 (V-S2), V-C14. -/
theorem test_setCoords : run1 0x00000600 (num2 0x4042E32FEC56D5D0 0xC05E9AD77318FC50) noStr [] =
    some (2, [0x0E, 0x34, 0x66, 0x40, 0x02, 0x38, 0x07, 0xB4, 0xF8, 0, 0, 0, 0]) := by decide
theorem test_setCoords_nan : run1 0x00000600 (num2 0 0x7FF8000000000000) noStr [] = some (0x126, []) := by decide
/-- V-C15. -/
theorem test_setTxPower : run1 0x00000700 (num1 22) noStr [] = some (2, [0x0C, 0x16, 0, 0, 0]) := by decide
/-- V-C20 (915.0, 125.0, 7, 8), V-C24 (F3). -/
theorem test_setRadio : run1 0x00000800 (num4 0x408C980000000000 0x405F400000000000 7 8) noStr [] =
    some (2, [0x0B, 0x38, 0xF6, 0x0D, 0x00, 0x48, 0xE8, 0x01, 0x00, 0x07, 0x08]) := by decide
theorem test_setRadio_last_field : run1 0x00000800 (num4 0x408C980000000000 0x405F400000000000 11 256) noStr [] =
    some (0x326, []) := by decide
/-- V-C25. -/
theorem test_sendAdvertisement : run1 0x00000900 (num1 1) noStr [] = some (2, [0x07, 0x01]) := by decide
theorem test_sendAdvertisement_two : run1 0x00000900 (num1 2) noStr [] = some (0x26, []) := by decide
/-- V-C26. -/
theorem test_reboot : run1 0x00000A00 noNum noStr [] = some (2, [0x13, 0x72, 0x65, 0x62, 0x6F, 0x6F, 0x74]) := by decide
theorem test_getContacts : run1 0x00000B00 noNum noStr [] = some (2, [0x04]) := by decide
theorem test_getMessage : run1 0x00000C00 noNum noStr [] = some (2, [0x0A]) := by decide
/-- V-C27, V-C29 (5-byte destination). -/
theorem test_sendMessage : run1 0x00000D00 (num2 0 1704067200) (str2 dest6 [0x68, 0x69]) [] =
    some (2, [0x02, 0x00, 0x00, 0x80, 0x00, 0x92, 0x65, 0xA1, 0xB2, 0xC3, 0xD4, 0xE5, 0xF6, 0x68, 0x69]) := by decide
theorem test_sendMessage_short_dest : run1 0x00000D00 (num2 0 1704067200) (str2 (zeros 5) [0x68]) [] = some (0x226, []) := by
  decide
/-- V-C30, V-C31. -/
theorem test_sendCommand : run1 0x00000E00 (num1 1704067200) (str2 dest6 [0x76, 0x65, 0x72]) [] =
    some (2, [0x02, 0x01, 0x00, 0x80, 0x00, 0x92, 0x65, 0xA1, 0xB2, 0xC3, 0xD4, 0xE5, 0xF6, 0x76, 0x65, 0x72]) := by decide
theorem test_sendCommand_first_error : run1 0x00000E00 (num1 4294967296) (str2 (zeros 5) []) [] = some (0x126, []) := by
  decide
/-- V-C32. -/
theorem test_sendChannelMessage : run1 0x00000F00 (num2 0 1704067200) (str1 [0x68, 0x65, 0x6C, 0x6C, 0x6F]) [] =
    some (2, [0x03, 0x00, 0x00, 0x80, 0x00, 0x92, 0x65, 0x68, 0x65, 0x6C, 0x6C, 0x6F]) := by decide
/-- V-C16. -/
theorem test_sendLogin : run1 0x00001000 noNum (str2 dest6 [0x70, 0x77]) [] =
    some (2, 0x1A :: (dest6 ++ zeros 26 ++ [0x70, 0x77])) := by decide
/-- V-C18: 33 bytes are too long. -/
theorem test_sendLogout : run1 0x00001100 noNum (str1 dest6) [] = some (2, 0x1D :: (dest6 ++ zeros 26)) := by decide
theorem test_sendLogout_too_long : run1 0x00001100 noNum (str1 (zeros 33)) [] = some (0x26, []) := by decide
/-- V-C34. -/
theorem test_sendStatusRequest : run1 0x00001200 noNum (str1 dest6) [] = some (2, 0x1B :: (dest6 ++ zeros 26)) := by decide
/-- V-C35. -/
theorem test_getChannel : run1 0x00001300 (num1 255) noStr [] = some (2, [0x1F, 0xFF]) := by decide
theorem test_getChannel_too_wide : run1 0x00001300 (num1 256) noStr [] = some (0x26, []) := by decide
/-- V-C36 (V-S3), V-C38. -/
theorem test_setChannel : run1 0x00001400 (num1 0) (str2 [0x47, 0x65, 0x6E, 0x65, 0x72, 0x61, 0x6C] (zeros 16)) [] =
    some (2, [0x20, 0x00, 0x47, 0x65, 0x6E, 0x65, 0x72, 0x61, 0x6C] ++ zeros 25 ++ zeros 16) := by decide
theorem test_setChannel_short_secret : run1 0x00001400 (num1 1) (str2 [] (zeros 15)) [] = some (0x226, []) := by decide
/-- V-C39. -/
theorem test_getStats : run1 0x00001500 (num1 2) noStr [] = some (2, [0x38, 0x02]) := by decide
theorem test_getStats_three : run1 0x00001500 (num1 3) noStr [] = some (0x26, []) := by decide
/-- V-C40. -/
theorem test_getSelfTelemetry : run1 0x00001600 noNum noStr [] = some (2, [0x27, 0x00, 0x00, 0x00]) := by decide
theorem test_exportPrivateKey : run1 0x00001700 noNum noStr [] = some (2, [0x17]) := by decide
theorem test_signStart : run1 0x00001800 noNum noStr [] = some (2, [0x21]) := by decide
theorem test_signFinish : run1 0x00001900 noNum noStr [] = some (2, [0x23]) := by decide
/-- V-C41. -/
theorem test_pathDiscovery : run1 0x00001A00 noNum (str1 dest6) [] = some (2, 0x34 :: (dest6 ++ zeros 26)) := by decide
/-- V-C42. -/
theorem test_sendTrace : run1 0x00001B00 (num3 0x12345678 0xCAFEBABE 0) noStr [] =
    some (2, [0x24, 0x78, 0x56, 0x34, 0x12, 0xBE, 0xBA, 0xFE, 0xCA, 0x00]) := by decide
/-- V-C44: an unwritten register faults. -/
theorem test_unwritten_register : stops (step (busy 0x00000400 noNum noStr [])) = some .unwrittenArgument := by decide

/-- `{1, TEMP, 25.5}` and `{4, GPS, 37.7749, -122.4194, 10.0}` (V-F1). -/
def temp25 : Entry := { ch := 1, sk := 0, c0 := 0x4039800000000000, c1 := 0, c2 := 0 }
def gpsVector : Entry := { ch := 4, sk := 3, c0 := 0x4042E32FEC56D5D0, c1 := 0xC05E9AD77318FC50, c2 := 0x4024000000000000 }
/-- `{2, TEMP, 3276.8}`, out of range (V-F4). -/
def tempHot : Entry := { ch := 2, sk := 0, c0 := 0x40A999999999999A, c1 := 0, c2 := 0 }

/-- V-L1 (V-S4), V-L32. -/
theorem test_lppEntry : run1 0x00000001 noNum noStr [(0, temp25)] = some (2, [0x01, 0x67, 0x00, 0xFF]) := by decide
theorem test_lppEntry_out_of_range : run1 0x00070001 noNum noStr [(7, tempHot)] = some (0x736, []) := by decide
/-- V-F1, V-F4. -/
theorem test_lppFrame : run1 0x00020002 noNum noStr [(0, temp25), (1, gpsVector)] =
    some (2, [0x01, 0x67, 0x00, 0xFF, 0x04, 0x88, 0x05, 0xC3, 0x95, 0xED, 0x51, 0xFE, 0x00, 0x03, 0xE8]) := by decide
theorem test_lppFrame_second_entry : run1 0x00020002 noNum noStr [(0, temp25), (1, tempHot)] = some (0x136, []) := by decide

/-- The sensor rows, through their descriptor words; `E0`'s component words are kept. -/
def withE0 (c0 c1 c2 : Word64) : State := idle noNum noStr [(0, { ch := 0, sk := 0, c0 := c0, c1 := c1, c2 := c2 })]

/-- V-L4 (-5.7). -/
theorem test_temp : result (step ((withE0 0xC016CCCCCCCCCCCD 0 0).withFetchWord 16 0x0001)) =
    some (2, [0x01, 0x67, 0xFF, 0xC7]) := by decide
/-- V-L9 (50.0), V-L12 (-0.5). -/
theorem test_hum : result (step ((withE0 0x4049000000000000 0 0).withFetchWord 16 0x0102)) = some (2, [0x02, 0x68, 0x64]) := by
  decide
theorem test_hum_negative : result (step ((withE0 0xBFE0000000000000 0 0).withFetchWord 16 0x0102)) = some (0x36, []) := by
  decide
/-- V-L14 (0.29): the binary64 product is just below 29. -/
theorem test_analog : result (step ((withE0 0x3FD28F5C28F5C28F 0 0).withFetchWord 16 0x0203)) =
    some (2, [0x03, 0x02, 0x00, 0x1C]) := by decide
/-- V-L17 (V-S5). -/
theorem test_gps :
    result (step ((withE0 0x4042E32FEC56D5D0 0xC05E9AD77318FC50 0x4024000000000000).withFetchWord 16 0x0304)) =
      some (2, [0x04, 0x88, 0x05, 0xC3, 0x95, 0xED, 0x51, 0xFE, 0x00, 0x03, 0xE8]) := by decide
/-- V-L23 (1013.25, an exact tie): 10133 with ties away, 10132 with ties to even. -/
theorem test_baro : result (step ((withE0 0x408FAA0000000000 0 0).withFetchWord 16 0x0405)) =
    some (2, [0x05, 0x73, 0x27, 0x95]) := by decide
theorem test_baro_even :
    result (step ({ withE0 0x408FAA0000000000 0 0 with cfg := { Config.vectors with pressureTie := .even } }.withFetchWord 16 0x0405)) =
      some (2, [0x05, 0x73, 0x27, 0x94]) := by decide
/-- V-L28 (1.234, -0.981, 9.81). -/
theorem test_accel :
    result (step ((withE0 0x3FF3BE76C8B43958 0xBFEF645A1CAC0831 0x40239EB851EB851F).withFetchWord 16 0x0506)) =
      some (2, [0x06, 0x71, 0x04, 0xD2, 0xFC, 0x2B, 0x26, 0x52]) := by decide

/-- V-Q1, V-Q8, V-Q9: requests rejected with an error code. -/
theorem test_rejected_requests : run1 0x00001C00 noNum noStr [] = some (0x16, []) ∧
    run1 0x00100001 noNum noStr [] = some (0x1026, []) ∧ run1 0x00110002 noNum noStr [] = some (0x1126, []) := by decide

/-- The forms of R72, as text, with the words that its comments give. -/
theorem test_assembly_text :
    textEvents 0 ["START LPP.ENTRY E3".toList, "START CMD.sendTrace ; a comment".toList, "RB 0x10".toList, "".toList] =
      some [.host (.start 0x00030001), .host (.start 0x00001B00), .host (.readOut 16)] ∧
    textEvents 0 ["WS S0, \"Hi; x\"".toList, "WS S1, hex:".toList] =
      some [.host (.writeStr 0 [0x48, 0x69, 0x3B, 0x20, 0x78]), .host (.writeStr 1 [])] := by decide

/-- A real literal of R72 is rounded to binary64, and an absent component is `+0.0`. -/
theorem test_assembly_reals :
    textEvents 0 ["WN N0, 37.7749".toList] = some [.host (.writeNum 0 0x4042E32FEC56D5D0)] ∧
    textEvents 0 ["WE E1, ch=2, TEMP, 25.5".toList] = some [.host (.writeEntry 1 0x0002 0x4039800000000000 0 0)] ∧
    textEvents 0 ["WE E1, ch=2, LIGHT, 25.5".toList] = none := by decide

/-- What a run of `k` steps has given the host. -/
def callReturns (k : Nat) (events : List Event) : Option CallResult :=
  match Host.Core.run Sys2Proof.core k { State.reset with events := events } with
  | .next t => callResult t.replies
  | .fault _ => none
  | .refused _ => none

/-- R74's shorthand `setTime(1704067200)`: the expansion, the frame it returns, and `ECODE` of an argument too wide. -/
theorem test_command_call :
    encodeCommandCall 4 [.num (.int 1704067200)] 0 1 =
      some [.host (.writeNum 0 1704067200), .host (.start 0x00000400), .engine, .host .readStatus, .host .readOutLen,
        .host (.readOut 0)] ∧
    (encodeCommandCall 4 [.num (.int 1704067200)] 2 5).bind (callReturns 12) = some (.frame [0x06, 0x80, 0x00, 0x92, 0x65]) ∧
    (encodeCommandCall 4 [.num (.int 4294967296)] 0 0).bind (callReturns 5) = some (.error 2) ∧
    (encodeCommandCall 4 [.num (.int (2 ^ 64 - 1))] 0 0).isSome = true ∧ encodeCommandCall 4 [.num (.int (2 ^ 64))] 0 0 = none ∧
    encodeCommandCall 4 [.str (.hex [])] 0 0 = none ∧ encodeCommandCall 28 [] 0 0 = none := by decide

/-- The other two call forms, V-S5 and 16 entries at most (`LPP_SLOTS`). -/
theorem test_lpp_calls :
    callReturns 16 (encodeLppEntryCall 4 3 0x4042E32FEC56D5D0 0xC05E9AD77318FC50 0x4024000000000000 0 11) =
      some (.frame [0x04, 0x88, 0x05, 0xC3, 0x95, 0xED, 0x51, 0xFE, 0x00, 0x03, 0xE8]) ∧
    (encodeLppFrameCall Config.vectors [temp25] 0 4).bind (callReturns 9) = some (.frame [0x01, 0x67, 0x00, 0xFF]) ∧
    encodeLppFrameCall Config.vectors (List.replicate 17 temp25) 0 0 = none := by decide

/-- V-H2, V-H4: a dropped write sets DROP, CLEAR clears it. -/
theorem test_drop_and_clear : (statusWord (transact (.writeNum 4 1) State.reset).status).toNat = 8 ∧
    transact .clear (transact (.writeNum 4 1) State.reset) = State.reset := by decide

/-! ## Witnesses: the hypotheses of the statements, met -/

/-- The smallest and the largest configuration that R6 to R8 allow. -/
theorem witness_ResetMeetsTheInvariant :
    Config.Ok { Config.vectors with strCap := 32, lppSlots := 1, outCap := 65 } ∧
    Config.Ok { Config.vectors with strCap := 65502, lppSlots := 255, outCap := 65535 } := by decide

/-- A busy LFS whose operation is `getTime`. -/
def running : State := busy 0x00000300 noNum noStr []

/-- A busy LFS whose operation is `LPP.ENTRY E15`, with an entry there and the engine's event to come. -/
def runningEntry : State := { busy 0x000F0001 noNum noStr [(15, temp25)] with events := [.engine, .host .readStatus] }

theorem running_inv : running.Inv :=
  ⟨by decide, (by intro r b h; cases r <;> cases h), by decide, by decide, by decide, by decide, by decide,
    ⟨by decide, by decide, by decide, by decide, by decide⟩⟩

theorem runningEntry_inv : runningEntry.Inv :=
  ⟨by decide, (by intro r b h; cases r <;> cases h), by decide, by decide, by decide, by decide, by decide,
    ⟨by decide, by decide, by decide, by decide, by decide⟩⟩

/-- The state after `getTime` has completed. -/
def timeDone : State := succeed [0x05] running

theorem timeDone_inv : timeDone.Inv :=
  ⟨by decide, (by intro r b h; cases r <;> cases h), by decide, by decide, by decide, by decide, by decide,
    ⟨by decide, by decide, by decide, by decide, by decide⟩⟩

theorem running_step : react .engine running = .next timeDone := next_of (by decide)

theorem witness_EveryStepKeepsTheInvariant :
    (running.Inv ∧ ∃ t, step running = .next t) ∧ (runningEntry.Inv ∧ ∃ t, step runningEntry = .next t) :=
  ⟨⟨running_inv, exists_next (by decide)⟩, ⟨runningEntry_inv, exists_next (by decide)⟩⟩

theorem witness_EveryStepKeepsTheStatusInvariants : runningEntry.StatusInv ∧ ∃ t, step runningEntry = .next t :=
  ⟨runningEntry_inv.statusInv, exists_next (by decide)⟩

theorem witness_NoStepChangesTheConfiguration : ∃ t, step running = .next t := exists_next (by decide)

theorem witness_StepRunsTheDecodedRequest :
    (running.status.busy = true ∧ running.req = some 0x00000300 ∧ decodeReq 0x00000300 = .ok .getTime ∧ running.events = []) ∧
    (runningEntry.status.busy = true ∧ runningEntry.req = some 0x000F0001 ∧ decodeReq 0x000F0001 = .ok (.lppEntry 15) ∧
      runningEntry.events = .engine :: [.host .readStatus]) := by
  refine ⟨⟨?_, ?_, ?_, ?_⟩, ?_, ?_, ?_, ?_⟩ <;> rfl

theorem witness_StepRunsTheDecodedEntryDescriptor :
    runningEntry.status.busy = true ∧ runningEntry.req = some (reqWord 1 0 15) ∧
    readEntry runningEntry.ent (15 : Byte).toNat = some temp25 ∧ decodeEntry (entryWord temp25.sk temp25.ch) = .ok (.temp 1) ∧
    runningEntry.events = .engine :: [.host .readStatus] := by
  refine ⟨?_, ?_, ?_, ?_, ?_⟩ <;> rfl

theorem witness_StepAppliesTheNextEvent :
    ({ State.reset with events := [.host .clear] } : State).events = .host .clear :: [] ∧
    ({ State.reset with events := [.reset] } : State).events = .reset :: [] ∧
    (State.reset.status.busy = false ∧ ({ State.reset with events := [.engine] } : State).events = .engine :: []) ∧
    State.reset.events = [] := by decide

theorem witness_OnlyUnwrittenArgumentStopsTheMachine : running.Inv := running_inv

theorem witness_DecodeAndEncodeAgree : decode (.req 0x00FF0001) = .ok (.lppEntry 255) ∧ decode (.entry 0x05FF) = .ok (.accel 255) :=
  ⟨rfl, rfl⟩

theorem witness_RejectedRequestWordsAreExactlyThese :
    (¬∃ i, decodeReq 0x00001C00 = .ok i) ∧ (busy 0x00001C00 noNum noStr []).status.busy = true ∧
    (busy 0x00001C00 noNum noStr []).req = some 0x00001C00 :=
  ⟨(by rintro ⟨i, h⟩; have e : decodeReq 0x00001C00 = .error .unknownCommandKind := rfl; rw [e] at h; cases h), rfl, rfl⟩

theorem witness_LppIndexOutOfRangeIsInvalidArgument :
    State.reset.cfg.lppSlots ≤ (16 : Byte).toNat ∧ State.reset.cfg.lppSlots < (17 : Byte).toNat := by decide

theorem witness_OpcodesTellTheRowsApart : encodeCommand getTimeRow Config.vectors noNum noStr = .ok [0x05] := rfl

theorem witness_DroppedTransactionSetsOnlyDrop :
    running.status.busy = true ∧ 4 ≤ (4 : Byte).toNat ∧ 2 ≤ (2 : Byte).toNat ∧
    ({ State.reset with cfg := { Config.vectors with strCap := 32 } } : State).cfg.strCap < (zeros 33).length ∧
    State.reset.cfg.lppSlots ≤ (16 : Byte).toNat := by decide

theorem witness_WriteNumWritesItsRegister : State.reset.status.busy = false ∧ 4 ≤ (4 : Byte).toNat := by decide

theorem witness_WriteStrWritesItsRegister :
    ({ State.reset with cfg := { Config.vectors with strCap := 32 } } : State).status.busy = false ∧
    (zeros 32).length ≤ ({ State.reset with cfg := { Config.vectors with strCap := 32 } } : State).cfg.strCap ∧
    ([] : Bytes).length ≤ State.reset.cfg.strCap ∧
    ({ State.reset with cfg := { Config.vectors with strCap := 32 } } : State).cfg.strCap < (zeros 33).length := by decide

theorem witness_WriteEntryWritesItsRegister :
    State.reset.status.busy = false ∧ (15 : Byte).toNat < State.reset.cfg.lppSlots ∧ (14 : Nat) ≠ (15 : Byte).toNat ∧
    State.reset.cfg.lppSlots ≤ (16 : Byte).toNat := by decide

theorem witness_StartBeginsTheOperation : timeDone.status.busy = false ∧ running.status.busy = true := ⟨rfl, rfl⟩

/-- The state after `getChannel` has failed. -/
def channelFailed : State := failWith .invalidArgument 0 (busy 0x00001300 (num1 256) noStr [])

theorem witness_ReadOutLenReturnsTheFrameLength :
    (running.StatusInv ∧ running.status.busy = true) ∧ (channelFailed.StatusInv ∧ channelFailed.status.err = true) ∧
    (State.reset.StatusInv ∧ State.reset.req = none) :=
  ⟨⟨running_inv.statusInv, rfl⟩, ⟨⟨by decide, by decide, by decide, by decide, by decide⟩, rfl⟩,
    ⟨⟨by decide, by decide, by decide, by decide, by decide⟩, rfl⟩⟩

theorem witness_ReadOutReturnsTheFrameByte :
    ((0 : BitVec 16).toNat < timeDone.outLen.toNat ∧ Memory.read timeDone.out (0 : BitVec 16).toNat = some 0x05) ∧
    timeDone.outLen.toNat ≤ (1 : BitVec 16).toNat ∧ (timeDone.Inv ∧ timeDone.cfg.outCap ≤ (288 : BitVec 16).toNat) ∧
    (running.StatusInv ∧ running.status.busy = true) :=
  ⟨by decide, by decide, ⟨timeDone_inv, by decide⟩, running_inv.statusInv, rfl⟩

theorem witness_ResultsStayUntilTheNextStart : timeDone.status.done = true ∧ ∀ w, Transaction.writeNum 0 5 ≠ .start w :=
  ⟨rfl, by intro w h; cases h⟩

theorem witness_RunningOperationKeepsItsArguments : running.status.busy = true := rfl

/-- Program P4: a `WRITE_NUM` races the completion of `getStats`. -/
theorem witness_WriteRacingTheCompletionHasTwoOutcomes :
    (running.status.busy = true ∧ react .engine running = .next timeDone) ∧
    (Transaction.writeNum 3 5).wellFormed running.cfg = true ∧ (Transaction.writeStr 1 [1]).wellFormed running.cfg = true ∧
    (Transaction.writeEntry 15 0 0 0 0).wellFormed running.cfg = true :=
  ⟨⟨rfl, running_step⟩, rfl, rfl, rfl⟩

theorem witness_CompletionStepPerformsTheRequest :
    (running.cfg.Ok ∧ running.status.busy = true ∧ running.req = some 0x00000300) ∧
    (perform running.cfg 0x00000300 noNum noStr [] = .ok [0x05] ∧ ([0x05] : Bytes).length ≤ running.cfg.outCap) ∧
    perform running.cfg 0x00001C00 noNum noStr [] = .error (.raise .unknownKind 0) ∧
    perform running.cfg 0x00000400 noNum noStr [] = .error .unwritten := by decide

theorem witness_EveryFrameFitsTheOutputBuffer :
    running.cfg.Ok ∧ (∀ r b, readStr running.str r = some b → b.length ≤ running.cfg.strCap) ∧
    perform running.cfg 0x00000300 running.num running.str running.ent = .ok [0x05] :=
  ⟨running_inv.cfgOk, running_inv.strFits, rfl⟩

theorem witness_OperationsChangeNoArgumentRegister :
    (∃ t, exec .getTime running = .next t) ∧ running.status.busy = true ∧ react .engine running = .next timeDone :=
  ⟨exists_next (by decide), rfl, running_step⟩

theorem witness_RepeatedRequestGivesTheSameFrame :
    timeDone.cfg.Ok ∧ timeDone.status.busy = false ∧
    react .engine (transact (.start 0x00000300) timeDone) = .next timeDone :=
  ⟨timeDone_inv.cfgOk, rfl, next_of (by decide)⟩

theorem witness_UnwrittenRegisterComesBeforeFieldErrors : setRadioRow ∈ commandRegistry ∧ sendLoginRow ∈ commandRegistry := by
  decide

theorem witness_UnnamedRegistersAreNeverRead :
    (∀ fd ∈ setTimeRow.fields, fieldNum fd ≠ some .n1) ∧ (∀ fd ∈ setNameRow.fields, fieldStr fd ≠ some .s1) ∧
    temp25.sk ∈ [0, 1, 2, 4] := by decide

theorem engine_run (n : Nat) : runEvents (fun _ => .engine) running (n + 1) = .next timeDone := by
  induction n with
  | zero => exact running_step
  | succ n ih =>
    show (match runEvents (fun _ => .engine) running (n + 1) with
      | .next t => react .engine t
      | .fault r => .fault r
      | .refused r => .refused r) = _
    rw [ih]
    rfl

theorem witness_WeaklyFairRunsComplete :
    WeaklyFair (fun _ => .engine) running ∧ (∀ m : Nat, (fun _ : Nat => Event.engine) m ≠ .reset) ∧
    (∀ m, ∃ u, runEvents (fun _ => .engine) running m = .next u) ∧
    runEvents (fun _ => .engine) running 0 = .next running ∧ running.status.busy = true :=
  ⟨fun ⟨n, h⟩ => (h n (Nat.le_refl n)).1 rfl, fun _ => by simp,
    fun m => by cases m with
      | zero => exact ⟨_, rfl⟩
      | succ m => exact ⟨_, engine_run m⟩, rfl, rfl⟩

/-- `getTime` running, and a `POLL` that reads one busy status. -/
def polled : State := { running with events := pollEvents 1 }

theorem witness_PollEndsWithTheOperationComplete :
    polled.status.busy = true ∧ polled.events = pollEvents 1 ∧ ∃ t, Host.Core.run Sys2Proof.core 3 polled = .next t :=
  ⟨rfl, rfl, exists_next (by decide)⟩

/-- An idle LFS with a call form to come that writes `N0` first. -/
def called (w : ReqWord) (v : Word64) (n len : Nat) : State :=
  { State.reset with events := [Transaction.writeNum 0 v].map .host ++ callEvents w n len }

theorem called_inv (w : ReqWord) (v : Word64) (n len : Nat) : (called w v n len).Inv :=
  ⟨(by decide : State.reset.cfg.Ok), (by intro r b h; cases r <;> cases h), rfl, (by intro p h; cases h), rfl,
    (by intro p h; cases h), (by intro a h; cases h),
    ⟨(by intro h; cases h), ⟨fun _ => rfl, fun _ => ⟨rfl, rfl⟩⟩, (by intro h; cases h), fun _ => ⟨rfl, rfl⟩, fun _ => rfl⟩⟩

theorem witness_CallFormReturnsTheFrame :
    ((called 0x00000400 1704067200 1 5).Inv ∧ (called 0x00000400 1704067200 1 5).status.busy = false ∧
      (Transaction.writeNum 0 1704067200).wellFormed (called 0x00000400 1704067200 1 5).cfg = true ∧
      perform Config.vectors 0x00000400 (num1 1704067200) noStr [] = .ok [0x06, 0x80, 0x00, 0x92, 0x65]) ∧
    ((called 0x00000400 4294967296 0 0).Inv ∧
      perform Config.vectors 0x00000400 (num1 4294967296) noStr [] = .error (.raise .invalidArgument 0)) ∧
    (commandRegistry[(0x14 : Byte).toNat]? = some setChannelRow ∧ ∃ ws,
      argumentWrites setChannelRow.fields [.num (.int 0), .str (.hex []), .str (.hex (zeros 16))] = some ws ∧
        ∀ x ∈ ws, x.wellFormed Config.vectors = true) :=
  ⟨⟨called_inv _ _ _ _, rfl, rfl, by decide⟩, ⟨called_inv _ _ _ _, by decide⟩, rfl, _, rfl, by decide⟩

theorem witness_ByteOrdersAreMirrorImages : (3 : Nat) < 4 := by decide

theorem witness_FieldBytesDetermineTheInteger :
    (fitsSigned 2 (-32768) = true ∧ fitsSigned 2 (-32768) = true ∧ 0 < 2 ∧ le (-32768) 2 = le (-32768) 2) ∧
    (fitsUnsigned 2 65535 = true ∧ fitsUnsigned 2 65535 = true ∧ le 65535 2 = le 65535 2) := by decide

theorem witness_Binary64WordsDecode :
    ((0x7FF8000000000000 : Word64).toNat / 2 ^ 52 % 2048 = 0x7FF ∧ (0x7FF8000000000000 : Word64).toNat % 2 ^ 52 ≠ 0) ∧
    ((0xFFF0000000000000 : Word64).toNat / 2 ^ 52 % 2048 = 0x7FF ∧ (0xFFF0000000000000 : Word64).toNat % 2 ^ 52 = 0) ∧
    (1 ≤ (0x0010000000000000 : Word64).toNat / 2 ^ 52 % 2048 ∧ (0x7FEFFFFFFFFFFFFF : Word64).toNat / 2 ^ 52 % 2048 ≤ 0x7FE) ∧
    (0x8000000000000001 : Word64).toNat / 2 ^ 52 % 2048 = 0 := by decide

/-- The finite value 5/2. -/
def twoAndAHalf : FiniteF64 := { neg := false, m := 5, e := -1 }

theorem twoAndAHalf_value : twoAndAHalf.value = 5 / 2 := by norm_num [FiniteF64.value, twoAndAHalf]

theorem witness_IntegerConversionsRoundAsStated :
    0 ≤ twoAndAHalf.value ∧ ({ twoAndAHalf with neg := true } : FiniteF64).value ≤ 0 ∧
    |(rnd .away twoAndAHalf : ℚ) - twoAndAHalf.value| = 1 / 2 ∧ |(rnd .even twoAndAHalf : ℚ) - twoAndAHalf.value| = 1 / 2 := by
  have h1 : rnd .away twoAndAHalf = 3 := by decide
  have h2 : rnd .even twoAndAHalf = 2 := by decide
  refine ⟨by norm_num [twoAndAHalf_value], by norm_num [FiniteF64.value, twoAndAHalf], ?_, ?_⟩
  · rw [h1, twoAndAHalf_value]; norm_num [abs_of_pos]
  · rw [h2, twoAndAHalf_value]; norm_num [abs_of_neg]

/-- `2^53 + 1`, which two binary64 values are equally near to, and a value beyond every finite binary64 value. -/
theorem witness_DefaultProductIsCorrectlyRounded :
    |(({ neg := false, m := 2 ^ 53 + 1, e := 0 } : FiniteF64).value * (1 : Nat))| < (2 ^ 54 - 1) * 2 ^ 970 ∧
    binary64 (rneScale { neg := false, m := 2 ^ 53 + 1, e := 0 } 1) = .finite { neg := false, m := 2 ^ 52, e := 1 } ∧
    binary64 0x4340000000000001 = .finite { neg := false, m := 2 ^ 52 + 1, e := 1 } ∧
    ((2 ^ 54 - 1) * 2 ^ 970 : ℚ) ≤ |(({ neg := false, m := 1, e := 1024 } : FiniteF64).value * (1 : Nat))| := by
  have h : (1 : ℚ) ≤ 2 ^ 970 := one_le_pow₀ (by norm_num)
  refine ⟨?_, by decide, by decide, ?_⟩
  · norm_num [FiniteF64.value]
    generalize (2 : ℚ) ^ 970 = P at h ⊢
    linarith
  · have e : (2 : ℚ) ^ 1024 = 2 ^ 54 * 2 ^ 970 := by rw [← pow_add]
    norm_num [FiniteF64.value]
    rw [e]
    generalize (2 : ℚ) ^ 970 = P at h ⊢
    norm_num
    linarith

theorem witness_ZeroAndSubnormalInputsGiveZero :
    Config.vectors.scaleMul = .rne64 ∧ (0x800FFFFFFFFFFFFF : Word64).toNat / 2 ^ 52 % 2048 = 0 ∧
    1000000 ∈ [2, 10, 100, 1000, 10000, 1000000] := by decide

/-- A decimal below the overflow threshold, a zero with a sign, and a decimal beyond every finite binary64 value. -/
theorem witness_RealLiteralIsRoundedToBinary64 :
    |(1 * (1 : ℚ) * 10 ^ (0 : Int))| < (2 ^ 54 - 1) * 2 ^ 970 ∧ |(-1 * (0 : ℚ) * 10 ^ (0 : Int))| < (2 ^ 54 - 1) * 2 ^ 970 ∧
    ((2 ^ 54 - 1) * 2 ^ 970 : ℚ) ≤ |(1 * (1 : ℚ) * 10 ^ (309 : Int))| := by
  have h : (1 : ℚ) ≤ 2 ^ 970 := one_le_pow₀ (by norm_num)
  refine ⟨?_, by norm_num, ?_⟩
  · norm_num
    generalize (2 : ℚ) ^ 970 = P at h ⊢
    linarith
  · rw [show ((309 : Int)) = ((309 : Nat) : Int) from rfl, zpow_natCast, one_mul, one_mul, abs_of_pos (by positivity),
      show 970 = 194 * 5 from rfl, show 309 = 103 * 3 from rfl, pow_mul, pow_mul]
    norm_num

/-! The commands: each clause's hypotheses at the edge of its range. -/

theorem witness_CommandsWithoutArgumentsComplete : State.reset.cfg.Ok := by decide

theorem witness_AppStartAndSetNameEmitTheirText :
    running.cfg.Ok ∧ (busy 0 noNum (str1 (zeros 32)) []).str.s0 = some (zeros 32) ∧
    (zeros 32).length ≤ ({ State.reset with cfg := { Config.vectors with strCap := 32 } } : State).cfg.strCap ∧
    running.str.s0 = none := by decide

theorem witness_SetTimeAndSetTxPowerEmitFourBytes :
    ((busy 0x400 (num1 0xFFFFFFFF) noStr []).num.n0 = some 0xFFFFFFFF ∧ (0xFFFFFFFF : Word64).toNat < 2 ^ 32) ∧
    ((busy 0x400 (num1 0x100000000) noStr []).num.n0 = some 0x100000000 ∧ 2 ^ 32 ≤ (0x100000000 : Word64).toNat) ∧
    running.num.n0 = none := by decide

theorem inside_of {c : Config} {w : Word64} {s : Nat} {m : Conversion} {lo hi q : Int} (h : scaled c w s m = some q)
    (hr : lo ≤ q ∧ q ≤ hi) : InsideRange c w s m lo hi q := ⟨scaled_eq_some.mp h, hr⟩

theorem outside_of {c : Config} {w : Word64} {s : Nat} {m : Conversion} {lo hi q : Int} (h : scaled c w s m = some q)
    (hr : q < lo ∨ hi < q) : OutsideRange c w s m lo hi := .inr ⟨q, scaled_eq_some.mp h, hr⟩

theorem outside_nan (c : Config) (s : Nat) (m : Conversion) (lo hi : Int) : OutsideRange c 0x7FF8000000000000 s m lo hi :=
  .inl (.inl (by intro x h; cases h))

/-- V-C13, V-C14: 2147.483647 and -2147.483648 are the width limits, 2147.483648 and a NaN are outside. -/
theorem witness_SetCoordsEmitsScaledCoordinates :
    InsideRange Config.vectors 0x40A0C6F7A0945F9E 1000000 .trunc (-2 ^ 31) (2 ^ 31 - 1) 2147483647 ∧
    InsideRange Config.vectors 0xC0A0C6F7A0B5ED8D 1000000 .trunc (-2 ^ 31) (2 ^ 31 - 1) (-2147483648) ∧
    OutsideRange Config.vectors 0x40A0C6F7A0B5ED8D 1000000 .trunc (-2 ^ 31) (2 ^ 31 - 1) ∧
    OutsideRange Config.vectors 0x7FF8000000000000 1000000 .trunc (-2 ^ 31) (2 ^ 31 - 1) ∧
    (∃ s : State, s.cfg = Config.vectors ∧ s.cfg.Ok ∧ s.num.n0 = some 0x40A0C6F7A0945F9E ∧ s.num.n1 = some 0xC0A0C6F7A0B5ED8D) ∧
    (running.cfg.Ok ∧ running.num.n0 = none ∧ running.num.n1 = none) :=
  ⟨inside_of (by decide) (by decide), inside_of (by decide) (by decide), outside_of (q := 2147483648) (by decide) (by decide),
    outside_nan _ _ _ _ _, ⟨busy 0x600 (num2 0x40A0C6F7A0945F9E 0xC0A0C6F7A0B5ED8D) noStr [], by decide⟩, by decide⟩

/-- V-C22, V-C24: 0.0 and -0.0004 give 0, the smallest value of the field; -1.0 is outside. -/
theorem witness_SetRadioEmitsItsFourFields :
    InsideRange Config.vectors 0x0000000000000000 1000 .trunc 0 (2 ^ 32 - 1) 0 ∧
    InsideRange Config.vectors 0xBF3A36E2EB1C432D 1000 .trunc 0 (2 ^ 32 - 1) 0 ∧
    OutsideRange Config.vectors 0xBFF0000000000000 1000 .trunc 0 (2 ^ 32 - 1) ∧
    ((255 : Word64).toNat < 256 ∧ 256 ≤ (256 : Word64).toNat) ∧
    (∃ s : State, s.cfg.Ok ∧ s.num.n0 = some 0 ∧ s.num.n1 = some 0xBF3A36E2EB1C432D ∧ s.num.n2 = some 255 ∧ s.num.n3 = some 256) ∧
    running.num.n3 = none :=
  ⟨inside_of (by decide) (by decide), inside_of (by decide) (by decide), outside_of (q := -1000) (by decide) (by decide),
    by decide, ⟨busy 0x800 (num4 0 0xBF3A36E2EB1C432D 255 256) noStr [], by decide⟩, rfl⟩

theorem witness_SendMessageEmitsItsFields :
    (∃ s : State, s.cfg.Ok ∧ s.num.n0 = some 255 ∧ s.num.n1 = some 0xFFFFFFFF ∧ s.str.s0 = some dest6 ∧ s.str.s1 = some []) ∧
    ((255 : Word64).toNat < 2 ^ 8 ∧ (0xFFFFFFFF : Word64).toNat < 2 ^ 32 ∧ 6 ≤ dest6.length ∧ dest6.length ≤ 32 ∧
      ([] : Bytes).length ≤ Config.vectors.strCap) ∧
    2 ^ 8 ≤ (256 : Word64).toNat ∧ 2 ^ 32 ≤ (0x100000000 : Word64).toNat ∧ (zeros 5).length < 6 ∧ 32 < (zeros 33).length ∧
    running.str.s1 = none :=
  ⟨⟨busy 0xD00 (num2 255 0xFFFFFFFF) (str2 dest6 []) [], by decide⟩, by decide⟩

theorem witness_SendCommandEmitsItsFields :
    (∃ s : State, s.cfg.Ok ∧ s.num.n0 = some 0xFFFFFFFF ∧ s.str.s0 = some (zeros 32) ∧ s.str.s1 = some []) ∧
    ((0xFFFFFFFF : Word64).toNat < 2 ^ 32 ∧ 6 ≤ (zeros 32).length ∧ (zeros 32).length ≤ 32 ∧
      ([] : Bytes).length ≤ Config.vectors.strCap) ∧
    2 ^ 32 ≤ (0x100000000 : Word64).toNat ∧ (zeros 5).length < 6 ∧ 32 < (zeros 33).length ∧ running.num.n0 = none :=
  ⟨⟨busy 0xE00 (num1 0xFFFFFFFF) (str2 (zeros 32) []) [], by decide⟩, by decide⟩

theorem witness_SendChannelMessageEmitsItsFields :
    (∃ s : State, s.cfg.Ok ∧ s.num.n0 = some 255 ∧ s.num.n1 = some 0xFFFFFFFF ∧ s.str.s0 = some []) ∧
    ((255 : Word64).toNat < 2 ^ 8 ∧ (0xFFFFFFFF : Word64).toNat < 2 ^ 32 ∧ ([] : Bytes).length ≤ Config.vectors.strCap) ∧
    2 ^ 8 ≤ (256 : Word64).toNat ∧ 2 ^ 32 ≤ (0x100000000 : Word64).toNat ∧ running.num.n1 = none :=
  ⟨⟨busy 0xF00 (num2 255 0xFFFFFFFF) (str1 []) [], by decide⟩, by decide⟩

theorem witness_DestinationCommandsPadTo32Bytes :
    (∃ s : State, s.cfg.Ok ∧ s.str.s0 = some (zeros 32) ∧ s.str.s1 = some []) ∧ (zeros 32).length ≤ 32 ∧
    ([] : Bytes).length ≤ Config.vectors.strCap ∧ (∃ s : State, s.cfg.Ok ∧ s.str.s0 = some (zeros 33) ∧ s.str.s1 ≠ none) ∧
    32 < (zeros 33).length ∧ running.str.s0 = none ∧ running.str.s1 = none :=
  ⟨⟨busy 0x1000 noNum (str2 (zeros 32) []) [], by decide⟩, by decide, by decide,
    ⟨busy 0x1000 noNum (str2 (zeros 33) []) [], by decide⟩, by decide⟩

theorem witness_OneByteCommandsEmitTheirArgument :
    (∃ s : State, s.cfg.Ok ∧ s.num.n0 = some 2) ∧ (2 ≤ (2 : Word64).toNat ∧ (255 : Word64).toNat < 256 ∧
      256 ≤ (256 : Word64).toNat ∧ (2 : Word64).toNat ≤ 2 ∧ 2 < (3 : Word64).toNat) ∧ running.num.n0 = none :=
  ⟨⟨busy 0x1500 (num1 2) noStr [], by decide⟩, by decide⟩

theorem witness_SetChannelEmitsItsFields :
    (∃ s : State, s.cfg.Ok ∧ s.num.n0 = some 255 ∧ s.str.s0 = some (zeros 33) ∧ s.str.s1 = some (zeros 16)) ∧
    ((255 : Word64).toNat < 256 ∧ (zeros 16).length = 16 ∧ 256 ≤ (256 : Word64).toNat ∧ (zeros 15).length ≠ 16) ∧
    running.str.s1 = none :=
  ⟨⟨busy 0x1400 (num1 255) (str2 (zeros 33) (zeros 16)) [], by decide⟩, by decide⟩

theorem witness_SendTraceEmitsItsFields :
    (∃ s : State, s.cfg.Ok ∧ s.num.n0 = some 0xFFFFFFFF ∧ s.num.n1 = some 0xFFFFFFFF ∧ s.num.n2 = some 255) ∧
    ((0xFFFFFFFF : Word64).toNat < 2 ^ 32 ∧ (255 : Word64).toNat < 2 ^ 8 ∧ 2 ^ 32 ≤ (0x100000000 : Word64).toNat ∧
      2 ^ 8 ≤ (256 : Word64).toNat) ∧ running.num.n2 = none :=
  ⟨⟨busy 0x1B00 (num3 0xFFFFFFFF 0xFFFFFFFF 255) noStr [], by decide⟩, by decide⟩

/-- The first hypotheses of the entry statements, for `E15` holding an entry of sensor kind `sk`. -/
theorem witness_entry (sk : Byte) (c0 c1 c2 : Word64) :
    let en : Entry := { ch := 255, sk := sk, c0 := c0, c1 := c1, c2 := c2 }
    let s := busy 0x000F0001 noNum noStr [(15, en)]
    s.cfg.Ok ∧ (15 : Byte).toNat < s.cfg.lppSlots ∧ readEntry s.ent (15 : Byte).toNat = some en ∧
      s.req = some 0x000F0001 ∧ reqArg 0x000F0001 = 15 ∧ en.sk = sk :=
  ⟨witness_CommandsWithoutArgumentsComplete, (by decide : 15 < 16), rfl, rfl, by decide, rfl⟩

/-- V-L5, V-L6, V-L11, V-L12, V-L15, V-L16, V-L26, V-L27. -/
theorem witness_OneComponentEntriesEncode :
    InsideRange Config.vectors 0x40A9996666666666 10 .trunc (-32768) 32767 32767 ∧
    InsideRange Config.vectors 0xC0A999999999999A 10 .trunc (-32768) 32767 (-32768) ∧
    OutsideRange Config.vectors 0x40A999999999999A 10 .trunc (-32768) 32767 ∧
    InsideRange Config.vectors 0x405FE00000000000 2 .trunc 0 255 255 ∧
    OutsideRange Config.vectors 0x4060000000000000 2 .trunc 0 255 ∧
    InsideRange Config.vectors 0x40747AB851EB851F 100 .trunc (-32768) 32767 32767 ∧
    OutsideRange Config.vectors 0x40747AE147AE147B 100 .trunc (-32768) 32767 ∧
    InsideRange Config.vectors 0x40B9998A3D70A3D7 10 .rnd 0 65535 65535 ∧
    OutsideRange Config.vectors 0x40B9998CCCCCCCCD 10 .rnd 0 65535 :=
  ⟨inside_of (by decide) (by decide), inside_of (by decide) (by decide), outside_of (q := 32768) (by decide) (by decide),
    inside_of (by decide) (by decide), outside_of (q := 256) (by decide) (by decide), inside_of (by decide) (by decide),
    outside_of (q := 32768) (by decide) (by decide), inside_of (by decide) (by decide),
    outside_of (q := 65536) (by decide) (by decide)⟩

/-- V-L19, V-L21, V-L22, V-L29, V-L30. -/
theorem witness_ThreeComponentEntriesEncode :
    InsideRange Config.vectors 0xC08A36E2EB1C432D 10000 .trunc (-2 ^ 23) (2 ^ 23 - 1) (-8388608) ∧
    InsideRange Config.vectors 0x40F47AE11EB851EC 100 .trunc (-2 ^ 23) (2 ^ 23 - 1) 8388607 ∧
    OutsideRange Config.vectors 0x408A36E2EB1C432D 10000 .trunc (-2 ^ 23) (2 ^ 23 - 1) ∧
    OutsideRange Config.vectors 0x7FF8000000000000 100 .trunc (-2 ^ 23) (2 ^ 23 - 1) ∧
    InsideRange Config.vectors 0xC040624DD2F1A9FC 1000 .trunc (-32768) 32767 (-32768) ∧
    OutsideRange Config.vectors 0x4040624DD2F1A9FC 1000 .trunc (-32768) 32767 ∧
    OutsideRange Config.vectors 0x7FF8000000000000 1000 .trunc (-32768) 32767 :=
  ⟨inside_of (by decide) (by decide), inside_of (by decide) (by decide), outside_of (q := 8388608) (by decide) (by decide),
    outside_nan _ _ _ _ _, inside_of (by decide) (by decide), outside_of (q := 32768) (by decide) (by decide),
    outside_nan _ _ _ _ _⟩

/-- With `witness_entry`: the Temperature row on the entry of sensor kind 0. -/
theorem witness_SensorRowsRunAsTheirEntryRequest :
    (temp25.sk.toNat, Instr.temp temp25.ch) ∈
      [(0, Instr.temp temp25.ch), (1, .hum temp25.ch), (2, .analog temp25.ch), (3, .gps temp25.ch), (4, .baro temp25.ch),
        (5, .accel temp25.ch)] ∧
    entryBytes Config.vectors temp25 15 = .ok [0x01, 0x67, 0x00, 0xFF] ∧
    entryBytes Config.vectors tempHot 15 = .error (.raise .valueOutOfRange 15) := by decide

theorem witness_UnsupportedOrUnwrittenEntryStops :
    (15 : Byte).toNat < running.cfg.lppSlots ∧ readEntry running.ent (15 : Byte).toNat = none ∧
    (readEntry [(15, { temp25 with sk := 6 })] (15 : Byte).toNat = some { temp25 with sk := 6 } ∧
      6 ≤ ({ temp25 with sk := 6 } : Entry).sk.toNat) := by decide

theorem witness_EntryBytesHaveChannelTypeAndFixedLength :
    entryBytes Config.vectors temp25 0 = .ok [0x01, 0x67, 0x00, 0xFF] := by decide

/-- V-F1, V-F4 and V-F7 with `n = 2`. -/
theorem witness_FrameConcatenatesEntriesInOrder :
    running.cfg.Ok ∧ (2 : Byte).toNat ≤ running.cfg.lppSlots ∧ [temp25, tempHot].length = (2 : Byte).toNat ∧
    (∀ i, i < (2 : Byte).toNat → readEntry [(0, temp25), (1, tempHot)] i = [temp25, tempHot][i]?) ∧
    (entryBytes running.cfg temp25 (BitVec.ofNat 8 0) = .ok [0x01, 0x67, 0x00, 0xFF] ∧
      entryBytes running.cfg gpsVector (BitVec.ofNat 8 1) =
        .ok [0x04, 0x88, 0x05, 0xC3, 0x95, 0xED, 0x51, 0xFE, 0x00, 0x03, 0xE8]) ∧
    entryBytes running.cfg tempHot (BitVec.ofNat 8 1) = .error (.raise .valueOutOfRange (BitVec.ofNat 8 1)) ∧
    readEntry [(0, temp25)] 1 = none ∧ (0 : Byte).toNat ≤ running.cfg.lppSlots := by decide

end Sys2Proof.Tests
end

section
namespace Sys2Proof.Machine

/-! ### The bytes of a field (R13, R14) -/

theorem patternByte_toNat (v : Int) (n i : Nat) :
    (((patternByte v n i).toNat : Nat) : Int) = v % 2 ^ (8 * n) / 2 ^ (8 * i) % 256 := by
  have hpos : (0 : Int) ≤ v % 2 ^ (8 * n) := Int.emod_nonneg v (by positivity)
  simp [patternByte, Int.toNat_of_nonneg hpos]

theorem getElem?_le {v : Int} {n i : Nat} (h : i < n) : (le v n)[i]? = some (patternByte v n i) := by
  simp [le, h]

theorem be_eq_reverse_le (v : Int) (n : Nat) : be v n = (le v n).reverse := by
  apply List.ext_getElem
  · simp
  · intro i _ _
    simp [be, le]

/-- The number of the base-256 digits of `k`, `n` of them from the least significant on (R14). -/
theorem littleEndianValue_digits (k n : Nat) :
    littleEndianValue ((List.range n).map fun i => BitVec.ofNat 8 (k / 2 ^ (8 * i))) = k % 2 ^ (8 * n) := by
  induction n generalizing k with
  | zero => simp [littleEndianValue, Nat.mod_one]
  | succ n ih =>
    have hdiv (i : Nat) : k / 2 ^ (8 * (i + 1)) = k / 256 / 2 ^ (8 * i) := by
      rw [Nat.div_div_eq_div_mul, Nat.mul_succ, Nat.pow_add, Nat.mul_comm]
    have hpow : 2 ^ (8 * (n + 1)) = 256 * 2 ^ (8 * n) := by rw [Nat.mul_succ, Nat.pow_add, Nat.mul_comm]
    rw [hpow, Nat.mod_mul, ← ih (k / 256)]
    simp [List.range_succ_eq_map, littleEndianValue, Function.comp_def, hdiv]

theorem littleEndianValue_le (v : Int) (n : Nat) : (littleEndianValue (le v n) : Int) = v % 2 ^ (8 * n) := by
  have hpos : (0 : Int) ≤ v % 2 ^ (8 * n) := Int.emod_nonneg v (by positivity)
  have hlt : v % 2 ^ (8 * n) < 2 ^ (8 * n) := Int.emod_lt_of_pos v (by positivity)
  have hdigits : le v n = (List.range n).map fun i =>
      BitVec.ofNat 8 ((v % ((2 ^ (8 * n) : Nat) : Int)).toNat / 2 ^ (8 * i)) := rfl
  rw [hdigits, littleEndianValue_digits]
  push_cast
  rw [Int.toNat_of_nonneg hpos, Int.emod_eq_of_lt hpos hlt]

/-- Two integers of one range of length `M` with the same residue modulo `M` are equal. -/
theorem eq_of_emod_eq_of_range {v u lo M : Int} (hv : lo ≤ v ∧ v < lo + M) (hu : lo ≤ u ∧ u < lo + M)
    (h : v % M = u % M) : v = u := by
  have hdvd : M ∣ v - u := Int.ModEq.dvd (h : v ≡ u [ZMOD M]).symm
  have hlt : |v - u| < M := by rw [abs_lt]; omega
  have := Int.eq_zero_of_abs_lt_dvd hdvd hlt
  omega

end Sys2Proof.Machine

open Sys2Proof Sys2Proof.Machine

/-- Settles O36, by the byte at each index. -/
theorem byteOrdersAreMirrorImages : Obligations.ByteOrdersAreMirrorImages := by
  unfold Obligations.ByteOrdersAreMirrorImages
  exact fun v n => ⟨le_length v n, be_eq_reverse_le v n, fun i hi => ⟨_, getElem?_le hi, patternByte_toNat v n i⟩⟩

/-- Settles O37: the bytes fix the residue modulo `2^(8n)`, and a field holds one integer of each residue. -/
theorem fieldBytesDetermineTheInteger : Obligations.FieldBytesDetermineTheInteger := by
  unfold Obligations.FieldBytesDetermineTheInteger
  intro v u n
  refine ⟨littleEndianValue_le v n, fun hfits hn hbytes => ?_⟩
  have hmod : v % 2 ^ (8 * n) = u % 2 ^ (8 * n) := by
    rw [← littleEndianValue_le, ← littleEndianValue_le, hbytes]
  have hhalf : (2 : Int) ^ (8 * n) = 2 * 2 ^ (8 * n - 1) := by rw [← pow_succ']; congr 1; omega
  rcases hfits with ⟨hv, hu⟩ | ⟨hv, hu⟩
  · rw [fitsSigned_iff] at hv hu
    push_cast at hv hu
    exact eq_of_emod_eq_of_range (lo := -2 ^ (8 * n - 1)) (by omega) (by omega) hmod
  · rw [fitsUnsigned_iff] at hv hu
    push_cast at hv hu
    exact eq_of_emod_eq_of_range (lo := 0) (by omega) (by omega) hmod

namespace Sys2Proof.Machine

/-! ### The length of a frame (R8) -/

/-- A command frame is at most its opcode bytes and its fields' widths (R105). -/
theorem encodeCommand_length {row : CmdRow} {c : Config} {num : NumFile} {str : StrFile} {F : Bytes} {cap : Nat}
    (hs : ∀ r x, readStr str r = some x → x.length ≤ cap) (h : encodeCommand row c num str = .ok F) :
    F.length ≤ (rowHead row).length + (row.fields.map (fieldWidth cap)).sum := by
  unfold encodeCommand at h
  split_ifs at h
  split at h
  · cases h
  · rename_i bs hbs
    cases h
    have := encodeFields_length hs _ _ _ hbs
    simp only [List.length_append]
    omega

theorem encodeFrame_length {c : Config} {ent : EntryFile} {n : Byte} {F : Bytes} (h : encodeFrame c ent n = .ok F) :
    F.length ≤ 11 * n.toNat := by
  unfold encodeFrame at h
  split_ifs at h
  exact encodeEntries_length _ _ _ h

/-- What a successful `perform` encoded: a registry row, an entry, or a frame of at most `LPP_SLOTS` entries (R61, R88). -/
theorem perform_ok_cases {c : Config} {w : ReqWord} {num : NumFile} {str : StrFile} {ent : EntryFile} {F : Bytes}
    (h : perform c w num str ent = .ok F) :
    (∃ row ∈ commandRegistry, encodeCommand row c num str = .ok F) ∨
      (∃ k, encodeEntry c ent k = .ok F) ∨ ∃ n : Byte, n.toNat ≤ c.lppSlots ∧ encodeFrame c ent n = .ok F := by
  unfold perform at h
  split at h
  · cases h
  split at h
  · split at h
    · cases h
    split at h
    · rename_i row hrow
      exact .inl ⟨row, List.mem_of_getElem? hrow, h⟩
    · cases h
  · split_ifs at h
    exact .inr (.inl ⟨_, h⟩)
  · split_ifs at h with _ hn
    exact .inr (.inr ⟨_, Nat.not_lt.mp hn, h⟩)
  · cases h

end Sys2Proof.Machine

/-- Settles O28, by what `perform` can have encoded. -/
theorem everyFrameFitsTheOutputBuffer : Obligations.EveryFrameFitsTheOutputBuffer := by
  unfold Obligations.EveryFrameFitsTheOutputBuffer
  intro s w F hok hstr hF
  obtain ⟨hlongest, hcommand, hframe⟩ := outCap_room hok
  rcases perform_ok_cases hF with ⟨row, hrow, h⟩ | ⟨k, h⟩ | ⟨n, hn, h⟩
  · have := encodeCommand_length hstr h
    have := commandRegistry_width hrow hok.1.1
    omega
  · have := encodeEntry_length h
    omega
  · have := encodeFrame_length h
    omega
end

section
namespace Sys2Proof.Machine

/-! ### The fields of a binary64 word -/

theorem f64Sign_eq (w : Word64) : f64Sign w = decide (w.toNat / 2 ^ 63 = 1) := by
  have := w.isLt
  rw [f64Sign, BitVec.getLsbD, Nat.testBit_eq_decide_div_mod_eq, Nat.mod_eq_of_lt (by omega)]

theorem f64Exp_eq (w : Word64) : f64Exp w = w.toNat / 2 ^ 52 % 2048 := by
  simp [f64Exp, Nat.shiftRight_eq_div_pow]

theorem f64Frac_eq (w : Word64) : f64Frac w = w.toNat % 2 ^ 52 := by
  simp [f64Frac]

/-! ### The four readings of a word (R15) -/

theorem binary64_nan {w : Word64} (he : f64Exp w = 0x7FF) (hf : f64Frac w ≠ 0) : binary64 w = .nan := by
  simp [binary64, he, hf]

theorem binary64_inf {w : Word64} (he : f64Exp w = 0x7FF) (hf : f64Frac w = 0) : binary64 w = .inf (f64Sign w) := by
  simp [binary64, he, hf]

theorem binary64_normal {w : Word64} (hlo : 1 ≤ f64Exp w) (hhi : f64Exp w ≤ 0x7FE) :
    binary64 w = .finite { neg := f64Sign w, m := 2 ^ 52 + f64Frac w, e := (f64Exp w : Int) - 1075 } := by
  rw [binary64, if_neg (by omega), if_neg (by omega)]

theorem binary64_subnormal {w : Word64} (he : f64Exp w = 0) :
    binary64 w = .finite { neg := f64Sign w, m := f64Frac w, e := if f64Frac w = 0 then 0 else -1074 } := by
  simp [binary64, he]

/-- The factor a sign puts on an exact value (R15). -/
def signFactor (neg : Bool) : ℚ := if neg then -1 else 1

@[simp] theorem signFactor_true : signFactor true = -1 := rfl

@[simp] theorem signFactor_false : signFactor false = 1 := rfl

@[simp] theorem abs_signFactor (neg : Bool) : |signFactor neg| = 1 := by cases neg <;> simp

@[simp] theorem abs_signFactor_mul (neg : Bool) (x : ℚ) : |signFactor neg * x| = |x| := by
  rw [abs_mul, abs_signFactor, one_mul]

theorem FiniteF64.value_eq (p : FiniteF64) : p.value = signFactor p.neg * (p.m * (2 : ℚ) ^ p.e) := by
  rw [FiniteF64.value, mul_assoc]; rfl

theorem cast_signed (neg : Bool) (n : Nat) : ((signed neg n : Int) : ℚ) = signFactor neg * n := by
  cases neg <;> simp [signed]

/-- The exact value of a subnormal or a zero: the exponent written for a zero does not matter. -/
theorem subnormal_value (neg : Bool) (f : Nat) :
    ({ neg := neg, m := f, e := if f = 0 then 0 else -1074 } : FiniteF64).value =
      signFactor neg * (f * (2 : ℚ) ^ (-1074 : Int)) := by
  rw [FiniteF64.value_eq]
  by_cases hf : f = 0
  · simp [hf]
  · simp [hf]

/-! ### Exact values as quotients of naturals -/

/-- An integer power as a quotient of the two natural powers that the model computes with. -/
theorem zpow_eq_div_toNat {b : ℚ} (hb : b ≠ 0) (k : Int) : b ^ k = b ^ k.toNat / b ^ (-k).toNat := by
  rw [← zpow_natCast, ← zpow_natCast, ← zpow_sub₀ hb, Int.toNat_sub_toNat_neg]

theorem magnitude_eq_div (m : Nat) (e : Int) :
    (m : ℚ) * 2 ^ e = ((m * 2 ^ e.toNat : Nat) : ℚ) / ((2 ^ (-e).toNat : Nat) : ℚ) := by
  rw [zpow_eq_div_toNat two_ne_zero e]
  push_cast
  ring

/-! ### Rounding a quotient to an integer -/

/-- How far an integer stands from a quotient, over the quotient's denominator. -/
theorem abs_sub_div (q a : Nat) {b : Nat} (hb : 0 < b) :
    |(q : ℚ) - (a : ℚ) / b| = ((|(b * q : Int) - a| : Int) : ℚ) / b := by
  have hb' : (0 : ℚ) < b := by exact_mod_cast hb
  have hcommon : (q : ℚ) - (a : ℚ) / b = (b * q - a) / b := by field_simp
  rw [hcommon, abs_div, abs_of_pos hb']
  push_cast
  rfl

theorem abs_sub_div_le_half {q a b : Nat} (hb : 0 < b) :
    |(q : ℚ) - (a : ℚ) / b| ≤ 1 / 2 ↔ 2 * |(b * q : Int) - a| ≤ b := by
  have hb' : (0 : ℚ) < b := by exact_mod_cast hb
  rw [abs_sub_div q a hb, div_le_div_iff₀ hb' two_pos, one_mul, mul_comm]
  exact_mod_cast Iff.rfl

theorem abs_sub_div_eq_half {q a b : Nat} (hb : 0 < b) :
    |(q : ℚ) - (a : ℚ) / b| = 1 / 2 ↔ 2 * |(b * q : Int) - a| = b := by
  have hb' : (0 : ℚ) < b := by exact_mod_cast hb
  rw [abs_sub_div q a hb, div_eq_div_iff hb'.ne' two_ne_zero, one_mul, mul_comm]
  exact_mod_cast Iff.rfl

/-- The three cases of rounding half to even, by the remainder. -/
theorem divHalfEven_cases (a b : Nat) :
    (2 * (a % b) < b ∧ divHalfEven a b = a / b) ∨ (b < 2 * (a % b) ∧ divHalfEven a b = a / b + 1) ∨
      (2 * (a % b) = b ∧ divHalfEven a b = a / b + a / b % 2) := by
  unfold divHalfEven
  split_ifs with hdown hup
  · exact .inl ⟨hdown, rfl⟩
  · exact .inr (.inl ⟨hup, rfl⟩)
  · exact .inr (.inr ⟨by omega, rfl⟩)

theorem divHalfEven_near (a : Nat) {b : Nat} (hb : 0 < b) : |(divHalfEven a b : ℚ) - (a : ℚ) / b| ≤ 1 / 2 := by
  have hmod := Nat.mod_lt a hb
  have hdiv : (b : Int) * (a / b : Nat) + (a % b : Nat) = a := by exact_mod_cast Nat.div_add_mod a b
  rw [abs_sub_div_le_half hb]
  rcases divHalfEven_cases a b with ⟨hr, hq⟩ | ⟨hr, hq⟩ | ⟨hr, hq⟩
  · rw [hq, abs_of_nonpos (by omega)]
    omega
  · rw [hq, Nat.cast_succ, mul_add_one, abs_of_nonneg (by omega)]
    omega
  · rcases Nat.mod_two_eq_zero_or_one (a / b) with h | h
    · rw [hq, h, Nat.add_zero, abs_of_nonpos (by omega)]
      omega
    · rw [hq, h, Nat.cast_succ, mul_add_one, abs_of_nonneg (by omega)]
      omega

theorem divHalfEven_even_of_tie {a b : Nat} (hb : 0 < b) (h : |(divHalfEven a b : ℚ) - (a : ℚ) / b| = 1 / 2) :
    divHalfEven a b % 2 = 0 := by
  have hmod := Nat.mod_lt a hb
  have hdiv : (b : Int) * (a / b : Nat) + (a % b : Nat) = a := by exact_mod_cast Nat.div_add_mod a b
  rw [abs_sub_div_eq_half hb] at h
  rcases divHalfEven_cases a b with ⟨hr, hq⟩ | ⟨hr, hq⟩ | ⟨_, hq⟩
  · rw [hq, abs_of_nonpos (by omega)] at h
    omega
  · rw [hq, Nat.cast_succ, mul_add_one, abs_of_nonneg (by omega)] at h
    omega
  · omega

/-- Rounding half away from zero is off by less than half downwards, and by at most half upwards. -/
theorem divHalfUp_bounds (a : Nat) {b : Nat} (hb : 0 < b) :
    -(b : Int) < 2 * ((b * divHalfUp a b : Int) - a) ∧ 2 * ((b * divHalfUp a b : Int) - a) ≤ b := by
  have hmod := Nat.mod_lt (2 * a + b) (Nat.mul_pos two_pos hb)
  have hdiv := Nat.div_add_mod (2 * a + b) (2 * b)
  have hq : 2 * b * ((2 * a + b) / (2 * b)) = 2 * (b * divHalfUp a b) := by rw [mul_assoc]; rfl
  rw [hq] at hdiv
  rw [← Nat.cast_mul]
  omega

theorem divHalfUp_near (a : Nat) {b : Nat} (hb : 0 < b) : |(divHalfUp a b : ℚ) - (a : ℚ) / b| ≤ 1 / 2 := by
  have hbounds := divHalfUp_bounds a hb
  rw [abs_sub_div_le_half hb]
  rcases abs_cases ((b * divHalfUp a b : Int) - a) with ⟨h, _⟩ | ⟨h, _⟩ <;> omega

theorem div_lt_divHalfUp_of_tie {a b : Nat} (hb : 0 < b) (h : |(divHalfUp a b : ℚ) - (a : ℚ) / b| = 1 / 2) :
    (a : ℚ) / b < divHalfUp a b := by
  have hbounds := divHalfUp_bounds a hb
  have hb' : (0 : ℚ) < b := by exact_mod_cast hb
  rw [abs_sub_div_eq_half hb] at h
  have hup : (a : Int) < b * divHalfUp a b := by
    rcases abs_cases ((b * divHalfUp a b : Int) - a) with ⟨h', _⟩ | ⟨h', _⟩ <;> omega
  rw [div_lt_iff₀' hb']
  exact_mod_cast hup

/-! ### trunc and rnd (R16) -/

/-- A finite value is its sign on the quotient that the conversions divide out. -/
theorem FiniteF64.value_eq_div (p : FiniteF64) :
    p.value = signFactor p.neg * (((p.m * 2 ^ p.e.toNat : Nat) : ℚ) / ((2 ^ (-p.e).toNat : Nat) : ℚ)) := by
  rw [FiniteF64.value_eq, magnitude_eq_div]

/-- A signed integer and a signed quotient are as far apart as their magnitudes. -/
theorem abs_cast_signed_sub (neg : Bool) (n : Nat) (x : ℚ) :
    |((signed neg n : Int) : ℚ) - signFactor neg * x| = |(n : ℚ) - x| := by
  rw [cast_signed, ← mul_sub, abs_signFactor_mul]

theorem abs_cast_signed (neg : Bool) (n : Nat) : |((signed neg n : Int) : ℚ)| = n := by
  rw [cast_signed, abs_signFactor_mul, Nat.abs_cast]

theorem signed_mod_two {n : Nat} (neg : Bool) (h : n % 2 = 0) : signed neg n % 2 = 0 := by
  cases neg <;> simp only [signed, if_true, if_false, Bool.false_eq_true] <;> omega

/-- `trunc` cuts the magnitude down to an integer and keeps the sign. -/
theorem trunc_bounds (p : FiniteF64) : |(trunc p : ℚ)| ≤ |p.value| ∧ |p.value| < |(trunc p : ℚ)| + 1 := by
  have hpos : (0 : ℚ) ≤ ((p.m * 2 ^ p.e.toNat : Nat) : ℚ) / ((2 ^ (-p.e).toNat : Nat) : ℚ) := by positivity
  rw [trunc, abs_cast_signed, FiniteF64.value_eq_div, abs_signFactor_mul, abs_of_nonneg hpos, ← Nat.floor_div_eq_div (K := ℚ)]
  exact ⟨Nat.floor_le hpos, Nat.lt_floor_add_one _⟩

theorem FiniteF64.value_nonneg {p : FiniteF64} (h : p.neg = false) : 0 ≤ p.value := by
  rw [FiniteF64.value_eq, h, signFactor_false, one_mul]
  positivity

theorem FiniteF64.value_nonpos {p : FiniteF64} (h : p.neg = true) : p.value ≤ 0 := by
  rw [FiniteF64.value_eq, h, signFactor_true, neg_one_mul, neg_nonpos]
  positivity

theorem trunc_eq_zero {p : FiniteF64} (h : p.value = 0) : trunc p = 0 := by
  have := (trunc_bounds p).1
  rw [h, abs_zero, abs_nonpos_iff] at this
  exact_mod_cast this

theorem trunc_nonneg {p : FiniteF64} (h : 0 ≤ p.value) : 0 ≤ trunc p := by
  cases hneg : p.neg with
  | false => rw [trunc, hneg]; exact Int.natCast_nonneg _
  | true => exact (trunc_eq_zero (le_antisymm (FiniteF64.value_nonpos hneg) h)).ge

theorem trunc_nonpos {p : FiniteF64} (h : p.value ≤ 0) : trunc p ≤ 0 := by
  cases hneg : p.neg with
  | false => exact (trunc_eq_zero (le_antisymm h (FiniteF64.value_nonneg hneg))).le
  | true => rw [trunc, hneg]; exact neg_nonpos.mpr (Int.natCast_nonneg _)

theorem rnd_near (tie : PressureTie) (p : FiniteF64) : |(rnd tie p : ℚ) - p.value| ≤ 1 / 2 := by
  cases tie with
  | away => rw [rnd, FiniteF64.value_eq_div, abs_cast_signed_sub]; exact divHalfUp_near _ (by positivity)
  | even => rw [rnd, FiniteF64.value_eq_div, abs_cast_signed_sub]; exact divHalfEven_near _ (by positivity)

theorem rnd_away_of_tie {p : FiniteF64} (h : |(rnd .away p : ℚ) - p.value| = 1 / 2) :
    |p.value| < |(rnd .away p : ℚ)| := by
  rw [rnd, FiniteF64.value_eq_div, abs_cast_signed_sub] at h
  rw [rnd, FiniteF64.value_eq_div, abs_cast_signed, abs_signFactor_mul, abs_of_nonneg (by positivity)]
  exact div_lt_divHalfUp_of_tie (by positivity) h

theorem rnd_even_of_tie {p : FiniteF64} (h : |(rnd .even p : ℚ) - p.value| = 1 / 2) : rnd .even p % 2 = 0 := by
  rw [rnd, FiniteF64.value_eq_div, abs_cast_signed_sub] at h
  exact signed_mod_two _ (divHalfEven_even_of_tie (by positivity) h)

end Sys2Proof.Machine

open Sys2Proof Sys2Proof.Machine

/-- Settles O38, by the four readings of a word. -/
theorem binary64WordsDecode : Obligations.Binary64WordsDecode := by
  unfold Obligations.Binary64WordsDecode
  intro w
  dsimp only
  rw [← f64Sign_eq, ← f64Exp_eq, ← f64Frac_eq]
  refine ⟨binary64_nan, binary64_inf, fun hlo hhi => ⟨_, binary64_normal hlo hhi, ?_⟩,
    fun he => ⟨_, binary64_subnormal he, ?_⟩⟩
  · simp only [FiniteF64.value, Nat.cast_add, Nat.cast_pow, Nat.cast_ofNat]
  · rw [subnormal_value, ← mul_assoc, signFactor]

/-- Settles O39: both conversions divide out the magnitude and keep the sign. -/
theorem integerConversionsRoundAsStated : Obligations.IntegerConversionsRoundAsStated := by
  unfold Obligations.IntegerConversionsRoundAsStated
  intro p
  obtain ⟨hle, hlt⟩ := trunc_bounds p
  exact ⟨⟨hle, hlt, trunc_nonneg, trunc_nonpos⟩, fun tie => rnd_near tie p, rnd_away_of_tie, rnd_even_of_tie⟩
end

section
namespace Sys2Proof.Machine

/-! ### The exponent and the quotient that RNE64 rounds with (R15) -/

/-- The quotient that the model divides out after scaling by `2^k`. -/
theorem quotient_div_two_zpow (num den : Nat) (k : Int) :
    ((num * 2 ^ (-k).toNat : Nat) : ℚ) / ((den * 2 ^ k.toNat : Nat) : ℚ) = (num : ℚ) / den / 2 ^ k := by
  rw [zpow_eq_div_toNat two_ne_zero k]
  push_cast
  field_simp

theorem ratLog2_bounds {num den : Nat} (hnum : num ≠ 0) (hden : den ≠ 0) :
    (2 : ℚ) ^ ratLog2 num den ≤ (num : ℚ) / den ∧ (num : ℚ) / den < 2 ^ (ratLog2 num den + 1) := by
  have hden' : (0 : ℚ) < den := by positivity
  have hnumLo : (2 : ℚ) ^ (num.log2 : Int) ≤ num := by exact_mod_cast Nat.log2_self_le hnum
  have hnumHi : (num : ℚ) < 2 ^ ((num.log2 : Int) + 1) := by exact_mod_cast (Nat.lt_log2_self : num < _)
  have hdenLo : (2 : ℚ) ^ (den.log2 : Int) ≤ den := by exact_mod_cast Nat.log2_self_le hden
  have hdenHi : (den : ℚ) < 2 ^ ((den.log2 : Int) + 1) := by exact_mod_cast (Nat.lt_log2_self : den < _)
  generalize hk : (num.log2 : Int) - (den.log2 : Int) = k
  have hlow : (2 : ℚ) ^ (k - 1) ≤ (num : ℚ) / den := by
    rw [le_div_iff₀ hden']
    calc (2 : ℚ) ^ (k - 1) * den ≤ 2 ^ (k - 1) * 2 ^ ((den.log2 : Int) + 1) := by gcongr
      _ = 2 ^ (num.log2 : Int) := by rw [← zpow_add₀ two_ne_zero]; congr 1; omega
      _ ≤ num := hnumLo
  have hhigh : (num : ℚ) / den < 2 ^ (k + 1) := by
    rw [div_lt_iff₀ hden']
    calc (num : ℚ) < 2 ^ ((num.log2 : Int) + 1) := hnumHi
      _ = 2 ^ (k + 1) * 2 ^ (den.log2 : Int) := by rw [← zpow_add₀ two_ne_zero]; congr 1; omega
      _ ≤ 2 ^ (k + 1) * den := by gcongr
  have hcmp : num * 2 ^ (-k).toNat < den * 2 ^ k.toNat ↔ (num : ℚ) / den < 2 ^ k := by
    rw [← div_lt_one (by positivity : (0 : ℚ) < 2 ^ k), ← quotient_div_two_zpow, div_lt_one (by positivity), Nat.cast_lt]
  unfold ratLog2
  rw [hk]
  by_cases h : (num : ℚ) / den < 2 ^ k
  · rw [if_pos (hcmp.mpr h), sub_add_cancel]
    exact ⟨hlow, h⟩
  · rw [if_neg (mt hcmp.mp h)]
    exact ⟨not_lt.mp h, hhigh⟩

/-- The integer that RNE64 rounds `num/den` to, in units of the last place `2^(rneExp num den)`. -/
def rneQuotient (num den : Nat) : Nat :=
  divHalfEven (num * 2 ^ (-rneExp num den).toNat) (den * 2 ^ (rneExp num den).toNat)

/-- The exponent and fraction fields of the value `q * 2^e`, as one number. -/
def packMagnitude (e : Int) (q : Nat) : Nat := (e + 1074).toNat * 2 ^ 52 + q

theorem rneMagnitude_eq (num den : Nat) :
    rneMagnitude num den = min (packMagnitude (rneExp num den) (rneQuotient num den)) (0x7FF * 2 ^ 52) := rfl

theorem le_rneExp (num den : Nat) : -1074 ≤ rneExp num den := le_max_right _ _

theorem rneQuotient_near (num : Nat) {den : Nat} (hden : den ≠ 0) :
    |(rneQuotient num den : ℚ) - (num : ℚ) / den / 2 ^ rneExp num den| ≤ 1 / 2 := by
  rw [← quotient_div_two_zpow]
  exact divHalfEven_near _ (by positivity)

theorem rneQuotient_even_of_tie {num den : Nat} (hden : den ≠ 0)
    (h : |(rneQuotient num den : ℚ) - (num : ℚ) / den / 2 ^ rneExp num den| = 1 / 2) :
    rneQuotient num den % 2 = 0 := by
  rw [← quotient_div_two_zpow] at h
  exact divHalfEven_even_of_tie (by positivity) h

section
variable {num den : Nat} (hnum : num ≠ 0) (hden : den ≠ 0)
include hnum hden

theorem quotient_lt_of_rneExp : (num : ℚ) / den < 2 ^ 53 * 2 ^ rneExp num den := by
  have hexp : ratLog2 num den + 1 ≤ 53 + rneExp num den := by
    have : ratLog2 num den - 52 ≤ rneExp num den := le_max_left _ _
    omega
  calc (num : ℚ) / den < 2 ^ (ratLog2 num den + 1) := (ratLog2_bounds hnum hden).2
    _ ≤ 2 ^ (53 + rneExp num den) := zpow_le_zpow_right₀ one_le_two hexp
    _ = 2 ^ 53 * 2 ^ rneExp num den := by rw [zpow_add₀ two_ne_zero]; rfl

theorem le_quotient_of_rneExp (h : -1074 < rneExp num den) : 2 ^ 52 * 2 ^ rneExp num den ≤ (num : ℚ) / den := by
  have hexp : 52 + rneExp num den = ratLog2 num den := by
    unfold rneExp at h ⊢
    omega
  calc (2 : ℚ) ^ 52 * 2 ^ rneExp num den = 2 ^ (52 + rneExp num den) := by rw [zpow_add₀ two_ne_zero]; rfl
    _ = 2 ^ ratLog2 num den := by rw [hexp]
    _ ≤ (num : ℚ) / den := (ratLog2_bounds hnum hden).1

theorem rneQuotient_le : rneQuotient num den ≤ 2 ^ 53 := by
  have hnear := (abs_le.mp (rneQuotient_near num hden)).2
  have hlt : (num : ℚ) / den / 2 ^ rneExp num den < 2 ^ 53 :=
    (div_lt_iff₀ (by positivity)).mpr (quotient_lt_of_rneExp hnum hden)
  have : (rneQuotient num den : ℚ) < (2 ^ 53 + 1 : Nat) := by push_cast; linarith
  exact Nat.lt_succ_iff.mp (by exact_mod_cast this)

theorem le_rneQuotient (h : -1074 < rneExp num den) : 2 ^ 52 ≤ rneQuotient num den := by
  have hnear := (abs_le.mp (rneQuotient_near num hden)).1
  have hle : (2 : ℚ) ^ 52 ≤ (num : ℚ) / den / 2 ^ rneExp num den :=
    (le_div_iff₀ (by positivity)).mpr (le_quotient_of_rneExp hnum hden h)
  have : ((2 ^ 52 : Nat) : ℚ) < rneQuotient num den + 1 := by push_cast; linarith
  exact Nat.lt_succ_iff.mp (by exact_mod_cast this)

end

/-! ### The overflow threshold (R9, R15) -/

/-- Half way between the largest finite binary64 value and `2^1024`. -/
def overflowThreshold : ℚ := (2 ^ 54 - 1) * 2 ^ 970

theorem overflowThreshold_eq : overflowThreshold = (2 ^ 53 - 1 / 2) * (2 : ℚ) ^ (971 : Int) := by
  have hpow : (2 : ℚ) ^ (971 : Int) = 2 * 2 ^ 970 := by rw [← pow_succ']; rfl
  rw [overflowThreshold, hpow]
  generalize (2 : ℚ) ^ 970 = unit
  ring

section
variable {num den : Nat} (hnum : num ≠ 0) (hden : den ≠ 0)
include hnum hden

theorem packMagnitude_finite (h : (num : ℚ) / den < overflowThreshold) :
    packMagnitude (rneExp num den) (rneQuotient num den) < 0x7FF * 2 ^ 52 := by
  have hq := rneQuotient_le hnum hden
  have hunit : (0 : ℚ) < 2 ^ (971 : Int) := by positivity
  rw [overflowThreshold_eq] at h
  rcases lt_trichotomy (rneExp num den) 971 with he | he | he
  · unfold packMagnitude
    omega
  · have hnear := (abs_le.mp (rneQuotient_near num hden)).2
    rw [he] at hnear
    have hlt := (div_lt_iff₀ hunit).mpr h
    have : (rneQuotient num den : ℚ) < (2 ^ 53 : Nat) := by push_cast; linarith
    have : rneQuotient num den < 2 ^ 53 := by exact_mod_cast this
    unfold packMagnitude
    omega
  · exfalso
    have hle := le_quotient_of_rneExp hnum hden (by omega)
    have hpow : (2 : ℚ) ^ (971 : Int) * 2 ≤ 2 ^ rneExp num den := by
      rw [← zpow_add_one₀ two_ne_zero]
      exact zpow_le_zpow_right₀ one_le_two (by omega)
    generalize (2 : ℚ) ^ (971 : Int) = unit at h hunit hpow
    linarith

theorem packMagnitude_overflows (h : overflowThreshold ≤ (num : ℚ) / den) :
    0x7FF * 2 ^ 52 ≤ packMagnitude (rneExp num den) (rneQuotient num den) := by
  have hunit : (0 : ℚ) < 2 ^ (971 : Int) := by positivity
  rw [overflowThreshold_eq] at h
  rcases lt_trichotomy (rneExp num den) 971 with he | he | he
  · exfalso
    have hlt := quotient_lt_of_rneExp hnum hden
    have hpow : (2 : ℚ) ^ rneExp num den * 2 ≤ 2 ^ (971 : Int) := by
      rw [← zpow_add_one₀ two_ne_zero]
      exact zpow_le_zpow_right₀ one_le_two (by omega)
    generalize (2 : ℚ) ^ (971 : Int) = unit at h hunit hpow
    linarith
  · have hnear := rneQuotient_near num hden
    have htie := rneQuotient_even_of_tie (num := num) hden
    rw [he] at hnear htie
    have hle := (le_div_iff₀ hunit).mpr h
    generalize (num : ℚ) / den / 2 ^ (971 : Int) = T at hnear htie hle
    have hq : 2 ^ 53 ≤ rneQuotient num den := by
      by_contra hlt
      have hlast : (rneQuotient num den : ℚ) ≤ 2 ^ 53 - 1 := by
        have : rneQuotient num den + 1 ≤ 2 ^ 53 := by omega
        rw [le_sub_iff_add_le]
        exact_mod_cast this
      have hdist := (abs_le.mp hnear).1
      have htop : (rneQuotient num den : ℚ) + 1 = 2 ^ 53 := by linarith
      have heven := htie (by rw [abs_of_nonpos] <;> linarith)
      have : rneQuotient num den + 1 = 2 ^ 53 := by exact_mod_cast htop
      omega
    unfold packMagnitude
    omega
  · have hq := le_rneQuotient hnum hden (by omega)
    unfold packMagnitude
    omega

end

/-! ### The word of a sign and a magnitude -/

/-- The binary64 word with the given sign whose exponent and fraction fields are `mag`. -/
def signedWord (neg : Bool) (mag : Nat) : Word64 := BitVec.ofNat 64 ((if neg then 2 ^ 63 else 0) + mag)

@[simp] theorem rne64_zero (neg : Bool) (den : Nat) : rne64 neg 0 den = signedWord neg 0 := rfl

theorem rne64_eq (neg : Bool) {num : Nat} (den : Nat) (h : num ≠ 0) :
    rne64 neg num den = signedWord neg (rneMagnitude num den) := by
  rw [rne64, if_neg h, signedWord]

section
variable (neg : Bool) {mag : Nat} (h : mag < 2 ^ 63)
include h

theorem signedWord_toNat : (signedWord neg mag).toNat = (if neg then 2 ^ 63 else 0) + mag := by
  rw [signedWord, BitVec.toNat_ofNat, Nat.mod_eq_of_lt]
  split <;> omega

theorem f64Sign_signedWord : f64Sign (signedWord neg mag) = neg := by
  rw [f64Sign_eq, signedWord_toNat neg h]
  cases neg <;> simp <;> omega

theorem f64Exp_signedWord : f64Exp (signedWord neg mag) = mag / 2 ^ 52 := by
  rw [f64Exp_eq, signedWord_toNat neg h]
  cases neg <;> simp <;> omega

theorem f64Frac_signedWord : f64Frac (signedWord neg mag) = mag % 2 ^ 52 := by
  rw [f64Frac_eq, signedWord_toNat neg h]
  cases neg <;> simp only [if_true, if_false, Bool.false_eq_true] <;> omega

theorem signedWord_mod_two : (signedWord neg mag).toNat % 2 = mag % 2 := by
  rw [signedWord_toNat neg h]
  cases neg <;> simp only [if_true, if_false, Bool.false_eq_true] <;> omega

end

theorem binary64_signedWord_inf (neg : Bool) : binary64 (signedWord neg (0x7FF * 2 ^ 52)) = .inf neg := by
  cases neg <;> decide

/-- A packed magnitude below the infinities' reads back as the value it was packed from: a quotient of `2^53` has
carried into the exponent. -/
theorem binary64_signedWord_packMagnitude (neg : Bool) {e : Int} {q : Nat} (he : -1074 ≤ e) (hq : q ≤ 2 ^ 53)
    (hnormal : -1074 < e → 2 ^ 52 ≤ q) (hfinite : packMagnitude e q < 0x7FF * 2 ^ 52) :
    ∃ p, binary64 (signedWord neg (packMagnitude e q)) = .finite p ∧ p.neg = neg ∧
      p.value = signFactor neg * (q * (2 : ℚ) ^ e) := by
  have h63 : packMagnitude e q < 2 ^ 63 := by omega
  have hsign := f64Sign_signedWord neg h63
  have hexp := f64Exp_signedWord neg h63
  have hfrac := f64Frac_signedWord neg h63
  generalize signedWord neg (packMagnitude e q) = w at hsign hexp hfrac
  unfold packMagnitude at hexp hfrac hfinite
  rcases lt_or_ge q (2 ^ 52) with hsub | hnorm
  · have he : e = -1074 := by omega
    have hq : f64Frac w = q := by omega
    refine ⟨_, binary64_subnormal (by omega), hsign, ?_⟩
    rw [subnormal_value, hsign, hq, he]
  · refine ⟨_, binary64_normal (by omega) (by omega), hsign, ?_⟩
    rw [FiniteF64.value_eq, hsign]
    rcases eq_or_lt_of_le hq with hcarry | hlt
    · have hexp : (f64Exp w : Int) - 1075 = e + 1 := by omega
      have hfrac : f64Frac w = 0 := by omega
      rw [hexp, hfrac, hcarry, zpow_add_one₀ two_ne_zero]
      push_cast
      ring
    · have hexp : (f64Exp w : Int) - 1075 = e := by omega
      have hfrac : 2 ^ 52 + f64Frac w = q := by omega
      rw [hexp, hfrac]

/-! ### No finite binary64 value is nearer -/

/-- A finite binary64 value is a 53-bit integer at an exponent that is at least the subnormals'. -/
theorem finite_value_eq {w : Word64} {y : FiniteF64} (h : binary64 w = .finite y) :
    ∃ (m : Nat) (e : Int), m < 2 ^ 53 ∧ -1074 ≤ e ∧ y.value = signFactor y.neg * (m * (2 : ℚ) ^ e) := by
  have hfrac : f64Frac w < 2 ^ 52 := by rw [f64Frac_eq]; omega
  have hexp : f64Exp w < 2048 := by rw [f64Exp_eq]; omega
  rcases Nat.eq_zero_or_pos (f64Exp w) with hzero | hpos
  · rw [binary64_subnormal hzero] at h
    cases h
    exact ⟨_, _, by omega, le_rfl, subnormal_value _ _⟩
  · rcases Nat.lt_or_ge 0x7FE (f64Exp w) with hspecial | hle
    · by_cases hf : f64Frac w = 0
      · rw [binary64_inf (by omega) hf] at h
        cases h
      · rw [binary64_nan (by omega) hf] at h
        cases h
    · rw [binary64_normal hpos hle] at h
      cases h
      exact ⟨2 ^ 52 + f64Frac w, f64Exp w - 1075, by omega, by omega, FiniteF64.value_eq _⟩

/-- At an exponent `E`, a finite binary64 value is a multiple of `2^E`, or it is too small to need 53 bits there. -/
theorem finite_value_multiple_or_small {w : Word64} {y : FiniteF64} (h : binary64 w = .finite y) {E : Int}
    (hE : -1074 ≤ E) : (∃ j : Int, y.value = j * (2 : ℚ) ^ E) ∨ (-1074 < E ∧ |y.value| < 2 ^ 52 * 2 ^ E) := by
  obtain ⟨m, e, hm, he, hy⟩ := finite_value_eq h
  rcases le_or_gt E e with hle | hlt
  · left
    refine ⟨signed y.neg (m * 2 ^ (e - E).toNat), ?_⟩
    have hpow : (2 : ℚ) ^ e = 2 ^ (e - E).toNat * 2 ^ E := by
      rw [← zpow_natCast, ← zpow_add₀ two_ne_zero]
      congr 1
      omega
    rw [hy, cast_signed, hpow]
    push_cast
    ring
  · right
    refine ⟨by omega, ?_⟩
    have hm' : (m : ℚ) < 2 ^ 53 := by exact_mod_cast hm
    rw [hy, abs_signFactor_mul, abs_of_nonneg (by positivity)]
    have hpow : (2 : ℚ) ^ e ≤ 2 ^ (E - 1) := zpow_le_zpow_right₀ one_le_two (by omega)
    calc (m : ℚ) * 2 ^ e < 2 ^ 53 * 2 ^ e := by gcongr
      _ ≤ 2 ^ 53 * 2 ^ (E - 1) := by gcongr
      _ = 2 ^ 52 * 2 ^ E := by rw [zpow_sub_one₀ two_ne_zero]; ring

section
variable {Q : Int} {T : ℚ} (hQ : |(Q : ℚ) - T| ≤ 1 / 2)
include hQ

/-- Every other integer is at least half away from what rounds to `Q`. -/
theorem half_le_abs_sub {j : Int} (hj : j ≠ Q) : 1 / 2 ≤ |(j : ℚ) - T| := by
  have hone : (1 : ℚ) ≤ |(j : ℚ) - Q| := by exact_mod_cast Int.one_le_abs (sub_ne_zero.mpr hj)
  have htri := abs_sub_le (j : ℚ) T Q
  rw [abs_sub_comm T] at htri
  linarith

theorem nearest_integer (j : Int) : |(Q : ℚ) - T| ≤ |(j : ℚ) - T| := by
  by_cases hj : j = Q
  · rw [hj]
  · exact hQ.trans (half_le_abs_sub hQ hj)

theorem tie_of_other_integer {j : Int} (hj : j ≠ Q) (h : |(Q : ℚ) - T| = |(j : ℚ) - T|) : |(Q : ℚ) - T| = 1 / 2 :=
  le_antisymm hQ (h ▸ half_le_abs_sub hQ hj)

end

theorem abs_mul_unit_sub (x r : ℚ) (E : Int) : |x * 2 ^ E - r| = |x - r / 2 ^ E| * (2 : ℚ) ^ E := by
  have hunit : (0 : ℚ) < 2 ^ E := by positivity
  rw [← abs_of_pos hunit, ← abs_mul, abs_of_pos hunit, sub_mul, div_mul_cancel₀ _ hunit.ne']

section
variable {Q E : Int} {r : ℚ} (hQ : |(Q : ℚ) - r / 2 ^ E| ≤ 1 / 2)
include hQ

theorem nearest_multiple (j : Int) : |(Q : ℚ) * 2 ^ E - r| ≤ |(j : ℚ) * 2 ^ E - r| := by
  rw [abs_mul_unit_sub, abs_mul_unit_sub]
  exact mul_le_mul_of_nonneg_right (nearest_integer hQ j) (by positivity)

/-- Where 53 bits are needed to reach `r`, a value too small for them is farther than the nearest multiple: the
multiple of magnitude `2^52` lies between. -/
theorem nearer_than_small {y : ℚ} (hr : 2 ^ 52 * 2 ^ E ≤ |r|) (hy : |y| < 2 ^ 52 * 2 ^ E) :
    |(Q : ℚ) * 2 ^ E - r| < |y - r| := by
  rcases abs_cases r with ⟨habs, _⟩ | ⟨habs, _⟩
  · have hnear := nearest_multiple hQ (2 ^ 52)
    rw [Int.cast_pow, Int.cast_ofNat] at hnear
    rw [habs] at hr
    rw [abs_of_nonpos (by linarith : (2 : ℚ) ^ 52 * 2 ^ E - r ≤ 0)] at hnear
    have := (abs_lt.mp hy).2
    have := neg_le_abs (y - r)
    linarith
  · have hnear := nearest_multiple hQ (-2 ^ 52)
    rw [Int.cast_neg, Int.cast_pow, Int.cast_ofNat] at hnear
    rw [habs] at hr
    rw [abs_of_nonneg (by linarith : (0 : ℚ) ≤ -2 ^ 52 * 2 ^ E - r)] at hnear
    have := (abs_lt.mp hy).1
    have := le_abs_self (y - r)
    linarith

/-- No finite binary64 value is nearer to `r` than the nearest multiple of the last place, and another is as near only
where `r` lies half way. -/
theorem nearest_finite (hE : -1074 ≤ E) (hr : -1074 < E → 2 ^ 52 * 2 ^ E ≤ |r|) {w : Word64} {y : FiniteF64}
    (hy : binary64 w = .finite y) :
    |(Q : ℚ) * 2 ^ E - r| ≤ |y.value - r| ∧
      (|(Q : ℚ) * 2 ^ E - r| = |y.value - r| → y.value ≠ Q * 2 ^ E → |(Q : ℚ) - r / 2 ^ E| = 1 / 2) := by
  rcases finite_value_multiple_or_small hy hE with ⟨j, hj⟩ | ⟨hE', hsmall⟩
  · rw [hj]
    refine ⟨nearest_multiple hQ j, fun heq hne => ?_⟩
    rw [abs_mul_unit_sub, abs_mul_unit_sub] at heq
    exact tie_of_other_integer hQ (by rintro rfl; exact hne rfl) (mul_right_cancel₀ (by positivity) heq)
  · have hlt := nearer_than_small hQ (hr hE') hsmall
    exact ⟨hlt.le, fun heq => absurd heq hlt.ne⟩

end

/-! ### RNE64 is correctly rounded (R9, R15, R18) -/

/-- `w` is the word of the exact value `r`, which has the sign `neg`, rounded to nearest, ties to an even fraction. -/
structure CorrectlyRounded (neg : Bool) (r : ℚ) (w : Word64) : Prop where
  finite : |r| < overflowThreshold → ∃ p, binary64 w = .finite p ∧ p.neg = neg ∧
    ∀ (v : Word64) (y : FiniteF64), binary64 v = .finite y →
      |p.value - r| ≤ |y.value - r| ∧ (|p.value - r| = |y.value - r| → y.value ≠ p.value → w.toNat % 2 = 0)
  overflow : overflowThreshold ≤ |r| → binary64 w = .inf neg

/-- A zero is the zero of its sign. -/
theorem signedWord_zero_correctlyRounded (neg : Bool) : CorrectlyRounded neg 0 (signedWord neg 0) where
  finite _ := by
    obtain ⟨p, hp, hneg, hvalue⟩ := binary64_signedWord_packMagnitude neg (e := -1074) (q := 0) (by omega) (by omega)
      (by omega) (by decide)
    have hzero : p.value = 0 := by simpa using hvalue
    refine ⟨p, hp, hneg, fun v y _ => ?_⟩
    rw [hzero]
    simp only [sub_zero, abs_zero]
    exact ⟨abs_nonneg _, fun heq hne => absurd (abs_eq_zero.mp heq.symm) hne⟩
  overflow h := by
    have hpos : 0 < overflowThreshold := by rw [overflowThreshold_eq]; positivity
    rw [abs_zero] at h
    exact absurd h (not_le.mpr hpos)

theorem rne64_correctlyRounded_of_ne_zero (neg : Bool) {num den : Nat} (hnum : num ≠ 0) (hden : den ≠ 0) :
    CorrectlyRounded neg (signFactor neg * ((num : ℚ) / den)) (rne64 neg num den) := by
  have habs : |signFactor neg * ((num : ℚ) / den)| = (num : ℚ) / den := by
    rw [abs_signFactor_mul, abs_of_nonneg (by positivity)]
  rw [rne64_eq neg den hnum, rneMagnitude_eq]
  constructor
  · intro h
    rw [habs] at h
    have hfinite := packMagnitude_finite hnum hden h
    rw [min_eq_left hfinite.le]
    obtain ⟨p, hp, hneg, hvalue⟩ := binary64_signedWord_packMagnitude neg (le_rneExp num den) (rneQuotient_le hnum hden)
      (le_rneQuotient hnum hden) hfinite
    have hdist :
        |((signed neg (rneQuotient num den) : Int) : ℚ) - signFactor neg * ((num : ℚ) / den) / 2 ^ rneExp num den| =
        |(rneQuotient num den : ℚ) - (num : ℚ) / den / 2 ^ rneExp num den| := by
      rw [mul_div_assoc, abs_cast_signed_sub]
    rw [← mul_assoc, ← cast_signed] at hvalue
    refine ⟨p, hp, hneg, fun v y hy => ?_⟩
    rw [hvalue]
    obtain ⟨hle, htie⟩ := nearest_finite (hdist.trans_le (rneQuotient_near num hden)) (le_rneExp num den)
      (by rw [habs]; exact le_quotient_of_rneExp hnum hden) hy
    refine ⟨hle, fun heq hne => ?_⟩
    have heven := rneQuotient_even_of_tie hden (hdist.symm.trans (htie heq hne))
    rw [signedWord_mod_two neg (by omega), packMagnitude]
    omega
  · intro h
    rw [habs] at h
    rw [min_eq_right (packMagnitude_overflows hnum hden h)]
    exact binary64_signedWord_inf neg

theorem rne64_correctlyRounded (neg : Bool) (num : Nat) {den : Nat} (hden : den ≠ 0) :
    CorrectlyRounded neg (signFactor neg * ((num : ℚ) / den)) (rne64 neg num den) := by
  by_cases hnum : num = 0
  · simpa [hnum] using signedWord_zero_correctlyRounded neg
  · exact rne64_correctlyRounded_of_ne_zero neg hnum hden

/-- The default product is the exact product rounded once (R104). -/
theorem rneScale_correctlyRounded (x : FiniteF64) (s : Nat) : CorrectlyRounded x.neg (x.value * s) (rneScale x s) := by
  have hexact : x.value * s =
      signFactor x.neg * (((x.m * s * 2 ^ x.e.toNat : Nat) : ℚ) / ((2 ^ (-x.e).toNat : Nat) : ℚ)) := by
    rw [← magnitude_eq_div, FiniteF64.value_eq]
    push_cast
    ring
  rw [hexact]
  exact rne64_correctlyRounded _ _ (by positivity)

/-- A real literal is its decimal rounded once (R18, R72). -/
theorem literalWord_correctlyRounded (neg : Bool) (digits : Nat) (exp10 : Int) :
    CorrectlyRounded neg (signFactor neg * digits * (10 : ℚ) ^ exp10) (literalWord (.real neg digits exp10)) := by
  have hexact : signFactor neg * digits * (10 : ℚ) ^ exp10 =
      signFactor neg * (((digits * 10 ^ exp10.toNat : Nat) : ℚ) / ((10 ^ (-exp10).toNat : Nat) : ℚ)) := by
    rw [zpow_eq_div_toNat (by norm_num) exp10]
    push_cast
    ring
  rw [hexact]
  exact rne64_correctlyRounded _ _ (by positivity)

end Sys2Proof.Machine

open Sys2Proof Sys2Proof.Machine

/-- Settles O40, since RNE64 is correctly rounded. -/
theorem defaultProductIsCorrectlyRounded : Obligations.DefaultProductIsCorrectlyRounded := by
  unfold Obligations.DefaultProductIsCorrectlyRounded
  intro x s
  have hround := rneScale_correctlyRounded x s
  refine ⟨fun h => ?_, hround.overflow⟩
  obtain ⟨p, hp, _, hnearest⟩ := hround.finite h
  exact ⟨p, hp, hnearest⟩

/-- Settles O42, since RNE64 is correctly rounded. -/
theorem realLiteralIsRoundedToBinary64 : Obligations.RealLiteralIsRoundedToBinary64 := by
  unfold Obligations.RealLiteralIsRoundedToBinary64
  refine ⟨fun neg digits exp10 => ?_, by decide⟩
  have hround := literalWord_correctlyRounded neg digits exp10
  exact ⟨fun _ => rfl, hround.finite, hround.overflow⟩
end

section
namespace Sys2Proof.Machine

/-! ### One step is one event (R44) -/

/-- A step is one event acting on the state, the order of events aside. -/
theorem step_eq_react (s : State) : ∃ ev rest, step s = react ev { s with events := rest } := by
  cases hev : s.events with
  | nil =>
    have hengine : step s = react .engine s := by simp [step, nextEvent, hev]
    exact ⟨.engine, s.events, hengine⟩
  | cons ev rest => exact ⟨ev, rest, by simp [step, nextEvent, hev]⟩

/-! ### The STATUS invariants (R26) -/

/-- A transaction is an accepted `START`, or it leaves `REQ`, `OUT_LEN` and STATUS but for `DROP` (R76 to R84). -/
theorem transact_start_or_keeps_results (x : Transaction) (s : State) :
    (∃ w, transact x s = acceptStart w s) ∨
      ((transact x s).req = s.req ∧ (transact x s).outLen = s.outLen ∧
        ∃ d, (transact x s).status = { s.status with drop := d }) := by
  cases hd : dropped x s with
  | true => rw [transact_dropped hd]; exact .inr ⟨rfl, rfl, true, rfl⟩
  | false =>
    rw [transact_accepted hd]
    cases x with
    | start w => exact .inl ⟨w, rfl⟩
    | clear => exact .inr ⟨rfl, rfl, false, rfl⟩
    | writeNum | writeStr => exact .inr ⟨by simp [accept], by simp [accept], s.status.drop, by simp [accept]⟩
    | writeEntry | readStatus | readOutLen | readOut => exact .inr ⟨rfl, rfl, s.status.drop, rfl⟩

/-- The STATUS invariants speak of `REQ`, `OUT_LEN` and STATUS but for `DROP`. -/
theorem State.StatusInv.of_same_results {s t : State} (h : s.StatusInv) (hreq : t.req = s.req)
    (hlen : t.outLen = s.outLen) {d : Bool} (hst : t.status = { s.status with drop := d }) : t.StatusInv := by
  obtain ⟨hbusy, hfresh, herr, hnoErr, hzero⟩ := h
  constructor <;> rw [hst] <;> simpa only [hreq, hlen]

theorem acceptStart_statusInv (w : ReqWord) (s : State) : (acceptStart w s).StatusInv := by
  constructor <;> simp

theorem resetEvent_statusInv (s : State) : (resetEvent s).StatusInv := by
  constructor <;> simp

theorem State.StatusInv.of_transact {s : State} (h : s.StatusInv) (x : Transaction) : (transact x s).StatusInv := by
  rcases transact_start_or_keeps_results x s with ⟨w, hw⟩ | ⟨hreq, hlen, d, hst⟩
  · rw [hw]; exact acceptStart_statusInv w s
  · exact h.of_same_results hreq hlen hst

/-- A running operation was started, so `REQ` is written. -/
theorem State.StatusInv.req_ne_none {s : State} (h : s.StatusInv) (hb : s.status.busy = true) : s.req ≠ none :=
  fun hnone => by simpa [hb] using (h.fresh.mpr hnone).1

theorem succeed_statusInv {s : State} (hreq : s.req ≠ none) (F : Bytes) : (succeed F s).StatusInv := by
  constructor <;> simp [hreq]

theorem ErrorCode.number_range (c : ErrorCode) : 1 ≤ c.number.toNat ∧ c.number.toNat ≤ 4 := by cases c <;> decide

theorem failWith_statusInv {s : State} (hreq : s.req ≠ none) (hlen : s.outLen = 0) (c : ErrorCode) (i : Byte) :
    (failWith c i s).StatusInv := by
  constructor <;> simp [hreq, hlen, c.number_range]

/-- A completion ends a running operation, whose `REQ` is written and whose `OUT_LEN` is 0 (R26, R86, R87). -/
theorem State.StatusInv.of_engineResult {s t : State} (h : s.StatusInv) (hb : s.status.busy = true)
    (ht : EngineResult s t) : t.StatusInv := by
  have hreq : s.req ≠ none := h.req_ne_none hb
  obtain ⟨-, -, -, -, hlen⟩ := h.busyClear hb
  rcases ht with ⟨F, -, rfl⟩ | ⟨c, i, rfl⟩
  · exact succeed_statusInv hreq F
  · exact failWith_statusInv hreq hlen c i

theorem State.StatusInv.of_react {s t : State} (h : s.StatusInv) (ev : Event) (ht : react ev s = .next t) :
    t.StatusInv := by
  cases ev with
  | host x => cases ht; exact h.of_transact x
  | reset => cases ht; exact resetEvent_statusInv s
  | engine =>
    cases hb : s.status.busy with
    | true => rw [react_engine_busy hb] at ht; exact h.of_engineResult hb (performRequest_result ht)
    | false => rw [react_engine_idle hb] at ht; cases ht; exact h

end Sys2Proof.Machine

open Sys2Proof Sys2Proof.Machine

/-- Settles O4: a step is one event, and each event keeps the invariants. -/
theorem everyStepKeepsTheStatusInvariants : Obligations.EveryStepKeepsTheStatusInvariants := by
  unfold Obligations.EveryStepKeepsTheStatusInvariants
  intro s t hs ht
  obtain ⟨ev, rest, hstep⟩ := step_eq_react s
  have hs' : { s with events := rest }.StatusInv := hs.of_same_results rfl rfl rfl
  exact hs'.of_react ev (hstep.symm.trans ht)

/-- Settles O5: a step is one event, and no event writes the configuration. -/
theorem noStepChangesTheConfiguration : Obligations.NoStepChangesTheConfiguration := by
  unfold Obligations.NoStepChangesTheConfiguration
  intro s t ht
  obtain ⟨ev, rest, hstep⟩ := step_eq_react s
  exact (react_cfg ev (hstep.symm.trans ht)).trans rfl

namespace Sys2Proof.Machine

/-! ### The registers after reset (R33) -/

theorem readNum_resetEvent (s : State) (r : NReg) : readNum (resetEvent s).num r = none := by cases r <;> rfl

theorem readStr_resetEvent (s : State) (r : SReg) : readStr (resetEvent s).str r = none := by cases r <;> rfl

theorem readEntry_resetEvent (s : State) (k : Nat) : readEntry (resetEvent s).ent k = none := rfl

/-- No byte of a frame can be read while `OUT_LEN` is 0 (R83). -/
theorem readOut_of_outLen_zero {s : State} (h : s.outLen = 0) (a : BitVec 16) : readOut s a = 0 := by
  simp [readOut, h]

end Sys2Proof.Machine

/-- Settles O1, by what each register reads as after `resetEvent`. -/
theorem resetClearsEveryRegister : Obligations.ResetClearsEveryRegister := by
  unfold Obligations.ResetClearsEveryRegister
  intro s
  exact ⟨resetEvent s, rfl, rfl, resetEvent_outLen s, resetEvent_req s, readNum_resetEvent s, readStr_resetEvent s,
    readEntry_resetEvent s, readOut_of_outLen_zero (resetEvent_outLen s), rfl, rfl⟩
end

section
namespace Sys2Proof.Machine

/-! ### Which event a step takes (R44, log entry 8) -/

theorem step_of_events_cons {s : State} {ev : Event} {rest : List Event} (h : s.events = ev :: rest) :
    step s = react ev { s with events := rest } := by
  simp [step, nextEvent, h]

theorem step_of_events_nil {s : State} (h : s.events = []) : step s = react .engine s := by
  simp [step, nextEvent, h]

/-! ### The results outlive every transaction but `START` (R45) -/

theorem transact_done_of_ne_start {x : Transaction} (hx : ∀ w, x ≠ .start w) (s : State) :
    (transact x s).status.done = s.status.done := by
  cases hd : dropped x s with
  | true => rw [transact_dropped hd]; rfl
  | false =>
    rw [transact_accepted hd]
    cases x with
    | start w => exact absurd rfl (hx w)
    | writeNum | writeStr => simp [accept]
    | writeEntry | readStatus | readOutLen | readOut | clear => rfl

/-- No transaction writes `OUT`: only a completion does (R86). -/
@[simp] theorem transact_out (x : Transaction) (s : State) : (transact x s).out = s.out := by
  cases hd : dropped x s with
  | true => rw [transact_dropped hd]; rfl
  | false =>
    rw [transact_accepted hd]
    cases x with
    | writeNum | writeStr => simp [accept]
    | writeEntry | start | readStatus | readOutLen | readOut | clear => rfl

/-- What `READ_OUT` returns is a matter of `OUT` and `OUT_LEN` (R83). -/
theorem readOut_eq_of_same_frame {s t : State} (hout : t.out = s.out) (hlen : t.outLen = s.outLen) (a : BitVec 16) :
    readOut t a = readOut s a := by
  simp [readOut, hout, hlen]

end Sys2Proof.Machine

open Sys2Proof Sys2Proof.Machine

/-- Settles O24: an accepted `START` would clear `DONE`, and any other transaction leaves the results. -/
theorem resultsStayUntilTheNextStart : Obligations.ResultsStayUntilTheNextStart := by
  unfold Obligations.ResultsStayUntilTheNextStart
  intro s x hdone hx
  have hdone' : (transact x s).status.done = true := (transact_done_of_ne_start hx s).trans hdone
  rcases transact_start_or_keeps_results x s with ⟨w, hstart⟩ | ⟨-, hlen, d, hst⟩
  · simp [hstart] at hdone'
  · refine ⟨hdone', ?_, ?_, ?_, ?_, hlen, readOut_eq_of_same_frame (transact_out x s) hlen⟩ <;> rw [hst]

/-- Settles O8: the head of the order acts, and the engine of an idle LFS leaves the state. -/
theorem stepAppliesTheNextEvent : Obligations.StepAppliesTheNextEvent := by
  unfold Obligations.StepAppliesTheNextEvent
  intro s rest
  refine ⟨fun t hhost => step_of_events_cons hhost, step_of_events_cons, fun hidle hengine => ?_, fun hidle hnil => ?_⟩
  · rw [step_of_events_cons hengine]
    exact react_engine_idle hidle
  · rw [step_of_events_nil hnil]
    exact react_engine_idle hidle
end

section
namespace Sys2Proof

/-! ### What decodes, and to what (R56 to R67, R70) -/

theorem reqUnit_cases (w : ReqWord) : reqUnit w = 0 ∨ reqUnit w = 1 ∨ reqUnit w = 2 ∨ reqUnit w = 3 := by
  generalize reqUnit w = unit
  revert unit
  decide

/-- A request word that decodes: no reserved bit, and a command kind of unit 0, or an LPP request of unit 1 or 2 (R61). -/
theorem decodeReq_eq_ok_iff {w : ReqWord} {i : Instr} :
    decodeReq w = .ok i ↔ reqReservedLo w = 0 ∧ reqReservedHi w = 0 ∧
      ((reqUnit w = 0 ∧ reqArg w = 0 ∧ commandOfKind (reqKind w).toNat = some i) ∨
        (reqUnit w = 1 ∧ reqKind w = 0 ∧ i = .lppEntry (reqArg w)) ∨
        (reqUnit w = 2 ∧ reqKind w = 0 ∧ i = .lppFrame (reqArg w))) := by
  unfold decodeReq
  by_cases hres : reqReservedLo w ≠ 0 ∨ reqReservedHi w ≠ 0
  · rw [if_pos hres]
    constructor
    · intro h
      cases h
    · rintro ⟨hlo, hhi, -⟩
      exact absurd hres (by simp [hlo, hhi])
  · rw [if_neg hres]
    have hlo : reqReservedLo w = 0 := by_contra fun h => hres (.inl h)
    have hhi : reqReservedHi w = 0 := by_contra fun h => hres (.inr h)
    rcases reqUnit_cases w with hu | hu | hu | hu
    · by_cases harg : reqArg w = 0#8
      · cases commandOfKind (reqKind w).toNat <;> simp [hu, hlo, hhi, harg]
      · simp [hu, harg]
    · by_cases hkind : reqKind w = 0#8 <;> simp [hu, hlo, hhi, hkind, @eq_comm _ i]
    · by_cases hkind : reqKind w = 0#8 <;> simp [hu, hlo, hhi, hkind, @eq_comm _ i]
    · simp [hu]

/-- An entry descriptor decodes to the row of its sensor kind, on its channel (R62, R66). -/
theorem decodeEntry_eq_ok_iff {ew : EntryWord} {i : Instr} :
    decodeEntry ew = .ok i ↔ sensorOfKind (entrySk ew).toNat (entryCh ew) = some i := by
  unfold decodeEntry
  cases sensorOfKind (entrySk ew).toNat (entryCh ew) <;> simp

/-! ### The words of the instructions (R63, R66) -/

theorem encode_of_commandOfKind {kind : Byte} {i : Instr} (h : commandOfKind kind.toNat = some i) :
    encode i = .req (reqWord 0 kind 0) := by
  have hkind : kind = BitVec.ofNat 8 kind.toNat := by simp
  rw [hkind]
  generalize kind.toNat = k at h
  unfold commandOfKind at h
  split at h <;> cases h <;> rfl

theorem encode_of_sensorOfKind {sk ch : Byte} {i : Instr} (h : sensorOfKind sk.toNat ch = some i) :
    encode i = .entry (entryWord sk ch) := by
  have hsk : sk = BitVec.ofNat 8 sk.toNat := by simp
  rw [hsk]
  generalize sk.toNat = k at h
  unfold sensorOfKind at h
  split at h <;> cases h <;> rfl

/-- Where an instruction's word lies: a command kind, an LPP request, or a sensor kind (R63, R66, R75). -/
theorem encode_cases (i : Instr) :
    (∃ kind : Byte, commandOfKind kind.toNat = some i) ∨ (∃ k, i = .lppEntry k) ∨ (∃ n, i = .lppFrame n) ∨
      ∃ sk ch : Byte, sensorOfKind sk.toNat ch = some i := by
  cases i
  case lppEntry k => exact .inr (.inl ⟨k, rfl⟩)
  case lppFrame n => exact .inr (.inr (.inl ⟨n, rfl⟩))
  case temp ch => exact .inr (.inr (.inr ⟨0, ch, rfl⟩))
  case hum ch => exact .inr (.inr (.inr ⟨1, ch, rfl⟩))
  case analog ch => exact .inr (.inr (.inr ⟨2, ch, rfl⟩))
  case gps ch => exact .inr (.inr (.inr ⟨3, ch, rfl⟩))
  case baro ch => exact .inr (.inr (.inr ⟨4, ch, rfl⟩))
  case accel ch => exact .inr (.inr (.inr ⟨5, ch, rfl⟩))
  all_goals
    refine .inl ?_
    decide

/-- The word of a command kind decodes to its row (R63). -/
theorem decodeReq_command {kind : Byte} {i : Instr} (h : commandOfKind kind.toNat = some i) :
    decodeReq (reqWord 0 kind 0) = .ok i := by
  simp [decodeReq_eq_ok_iff, h]

@[simp] theorem decodeReq_lppEntry (k : Byte) : decodeReq (reqWord 1 0 k) = .ok (.lppEntry k) := by
  simp [decodeReq_eq_ok_iff]

@[simp] theorem decodeReq_lppFrame (n : Byte) : decodeReq (reqWord 2 0 n) = .ok (.lppFrame n) := by
  simp [decodeReq_eq_ok_iff]

theorem decode_encode (i : Instr) : decode (encode i) = .ok i := by
  rcases encode_cases i with ⟨kind, h⟩ | ⟨k, rfl⟩ | ⟨n, rfl⟩ | ⟨sk, ch, h⟩
  · rw [encode_of_commandOfKind h]
    exact decodeReq_command h
  · exact decodeReq_lppEntry k
  · exact decodeReq_lppFrame n
  · rw [encode_of_sensorOfKind h]
    exact decodeEntry_eq_ok_iff.mpr (by simpa using h)

theorem encode_of_decodeReq {w : ReqWord} {i : Instr} (h : decodeReq w = .ok i) : encode i = .req w := by
  obtain ⟨hlo, hhi, hrow⟩ := decodeReq_eq_ok_iff.mp h
  rw [← reqWord_fields hlo hhi]
  rcases hrow with ⟨hunit, harg, hcmd⟩ | ⟨hunit, hkind, rfl⟩ | ⟨hunit, hkind, rfl⟩
  · rw [hunit, harg, encode_of_commandOfKind hcmd]
  · rw [hunit, hkind]
    rfl
  · rw [hunit, hkind]
    rfl

theorem encode_of_decodeEntry {ew : EntryWord} {i : Instr} (h : decodeEntry ew = .ok i) : encode i = .entry ew := by
  rw [encode_of_sensorOfKind (decodeEntry_eq_ok_iff.mp h), entryWord_fields]

end Sys2Proof

open Sys2Proof Sys2Proof.Machine

/-- Settles O10: a word's fields decide what it decodes to, and a word without reserved bits is composed of its fields. -/
theorem decodeAndEncodeAgree : Obligations.DecodeAndEncodeAgree := by
  unfold Obligations.DecodeAndEncodeAgree
  refine ⟨decode_encode, fun iw i h => ?_⟩
  cases iw with
  | req w => exact encode_of_decodeReq h
  | entry ew => exact encode_of_decodeEntry h

/-- Settles O11, by the decoder on each word. -/
theorem wordsOfTheTablesDecode : Obligations.WordsOfTheTablesDecode := by
  unfold Obligations.WordsOfTheTablesDecode
  exact ⟨rfl, rfl, rfl, rfl, rfl, rfl, rfl, rfl⟩
end

section
namespace Sys2Proof.Machine

/-! ### The engine's step on a decoded request (R61, R85) -/

theorem react_engine_decoded {s : State} {w : ReqWord} {i : Instr} (hb : s.status.busy = true) (hreq : s.req = some w)
    (hi : decodeReq w = .ok i) : react .engine s = exec i s := by
  rw [react_engine_busy hb, performRequest, requestWord_some hreq, hi]

theorem react_engine_rejected {s : State} {w : ReqWord} (hb : s.status.busy = true) (hreq : s.req = some w)
    (hw : ¬∃ i, decodeReq w = .ok i) : react .engine s = .next (failWith .unknownKind 0 s) := by
  rw [react_engine_busy hb, performRequest, requestWord_some hreq]
  cases h : decodeReq w with
  | ok i => exact absurd ⟨i, h⟩ hw
  | error _ => rfl

/-- A request word decodes unless a reserved bit is set, a field that its unit does not use is not zero, or its unit or
kind selects no row (R57, R58, R61, R64). -/
theorem decodeReq_isOk_iff (w : ReqWord) :
    (∃ i, decodeReq w = .ok i) ↔ reqReservedLo w = 0 ∧ reqReservedHi w = 0 ∧
      ((reqUnit w = 0 ∧ reqArg w = 0 ∧ (reqKind w).toNat < 28) ∨
        ((reqUnit w = 1 ∨ reqUnit w = 2) ∧ reqKind w = 0)) := by
  simp only [decodeReq_eq_ok_iff]
  constructor
  · rintro ⟨i, hlo, hhi, ⟨hunit, harg, hcmd⟩ | ⟨hunit, hkind, -⟩ | ⟨hunit, hkind, -⟩⟩
    · exact ⟨hlo, hhi, .inl ⟨hunit, harg, commandOfKind_isSome.mp ⟨i, hcmd⟩⟩⟩
    · exact ⟨hlo, hhi, .inr ⟨.inl hunit, hkind⟩⟩
    · exact ⟨hlo, hhi, .inr ⟨.inr hunit, hkind⟩⟩
  · rintro ⟨hlo, hhi, ⟨hunit, harg, hlt⟩ | ⟨hunit | hunit, hkind⟩⟩
    · obtain ⟨i, hcmd⟩ := commandOfKind_isSome.mpr hlt
      exact ⟨i, hlo, hhi, .inl ⟨hunit, harg, hcmd⟩⟩
    · exact ⟨_, hlo, hhi, .inr (.inl ⟨hunit, hkind, rfl⟩)⟩
    · exact ⟨_, hlo, hhi, .inr (.inr ⟨hunit, hkind, rfl⟩)⟩

/-! ### The entry request and the sensor rows (R60, R147, R155) -/

theorem exec_lppEntry_of_le {s : State} {k : Byte} (h : s.cfg.lppSlots ≤ k.toNat) :
    exec (.lppEntry k) s = .next (failWith .invalidArgument k s) := if_pos h

theorem exec_lppFrame_of_lt {s : State} {n : Byte} (h : s.cfg.lppSlots < n.toNat) :
    exec (.lppFrame n) s = .next (failWith .invalidArgument n s) := if_pos h

theorem exec_lppEntry_written {s : State} {k : Byte} {en : Entry} (hk : k.toNat < s.cfg.lppSlots)
    (he : readEntry s.ent k.toNat = some en) : exec (.lppEntry k) s = complete (entryBytes s.cfg en k) s := by
  simp [exec, execLppEntry, encodeEntry, Nat.not_le.mpr hk, he]

theorem exec_lppEntry_unwritten {s : State} {k : Byte} (hk : k.toNat < s.cfg.lppSlots)
    (he : readEntry s.ent k.toNat = none) : exec (.lppEntry k) s = .fault .unwrittenArgument := by
  simp [exec, execLppEntry, encodeEntry, Nat.not_le.mpr hk, he, complete_unwritten]

theorem entryBytes_unsupported {en : Entry} (h : 6 ≤ en.sk.toNat) (c : Config) (e : Byte) :
    entryBytes c en e = .error (.raise .unsupportedSensorKind e) := by
  have hrow : sensorRegistry[en.sk.toNat]? = none := List.getElem?_eq_none h
  simp only [entryBytes, hrow]

/-- A sensor kind's instruction runs the registry row of that index (R66, R94). -/
theorem sensorOfKind_row {sk : Nat} {ch : Byte} {i : Instr} (h : sensorOfKind sk ch = some i) :
    ∃ row, sensorRegistry[sk]? = some row ∧ ∀ s, exec i s = runSensor row ch s := by
  unfold sensorOfKind at h
  split at h
  case h_7 => cases h
  all_goals
    cases h
    exact ⟨_, rfl, fun _ => rfl⟩

/-- The instruction of an entry's sensor kind and channel does what the entry request does, out-of-range index included
(log entry 12). -/
theorem exec_sensor_eq_lppEntry {s : State} {k : Byte} {en : Entry} {w : ReqWord} {i : Instr}
    (he : readEntry s.ent k.toNat = some en) (hreq : s.req = some w) (harg : reqArg w = k)
    (hi : sensorOfKind en.sk.toNat en.ch = some i) : exec i s = exec (.lppEntry k) s := by
  obtain ⟨row, hrow, hexec⟩ := sensorOfKind_row hi
  rw [hexec]
  rcases Nat.lt_or_ge k.toNat s.cfg.lppSlots with hk | hk
  · obtain ⟨hentry, hsensor⟩ := exec_sensor hk he hreq harg hrow
    rw [hentry, hsensor]
  · rw [exec_lppEntry_of_le hk]
    simp [runSensor, requestWord_some hreq, harg, hk]

/-! ### The head of a command frame (R65, R105) -/

theorem encodeCommand_head {row : CmdRow} {c : Config} {num : NumFile} {str : StrFile} {F : Bytes}
    (h : encodeCommand row c num str = .ok F) : ∃ bs, F = rowHead row ++ bs := by
  unfold encodeCommand at h
  split_ifs at h
  split at h
  · cases h
  · cases h
    exact ⟨_, rfl⟩

/-- With or without a sub-opcode, the opcode comes first. -/
theorem getElem?_rowHead (row : CmdRow) (bs : Bytes) : (rowHead row ++ bs)[0]? = some row.opcode := by
  unfold rowHead
  split <;> rfl

end Sys2Proof.Machine

open Sys2Proof Sys2Proof.Machine

/-- Settles O6: a busy LFS's step is the engine's, whichever way its turn came. -/
theorem stepRunsTheDecodedRequest : Obligations.StepRunsTheDecodedRequest := by
  unfold Obligations.StepRunsTheDecodedRequest
  intro s w i rest hb hreq hi
  refine ⟨fun hengine => ?_, fun hnil => ?_⟩
  · rw [step_of_events_cons hengine]
    exact react_engine_decoded hb hreq hi
  · rw [step_of_events_nil hnil]
    exact react_engine_decoded hb hreq hi

/-- Settles O7: the step runs `LPP.ENTRY k`, which is the sensor instruction of what `E[k]` holds. -/
theorem stepRunsTheDecodedEntryDescriptor : Obligations.StepRunsTheDecodedEntryDescriptor := by
  unfold Obligations.StepRunsTheDecodedEntryDescriptor
  intro s k en i rest hb hreq hen hi
  have hsensor : sensorOfKind en.sk.toNat en.ch = some i := by simpa using decodeEntry_eq_ok_iff.mp hi
  obtain ⟨hengine, hnil⟩ := stepRunsTheDecodedRequest s _ _ rest hb hreq (decodeReq_lppEntry k)
  refine ⟨fun h => ?_, fun h => ?_⟩
  · rw [hengine h]
    exact (exec_sensor_eq_lppEntry (s := { s with events := rest }) hen hreq (reqArg_reqWord 1 0 k) hsensor).symm
  · rw [hnil h]
    exact (exec_sensor_eq_lppEntry hen hreq (reqArg_reqWord 1 0 k) hsensor).symm

/-- Settles O12: the cases are those of `decodeReq_isOk_iff` in the word's number, and the engine rejects the others. -/
theorem rejectedRequestWordsAreExactlyThese : Obligations.RejectedRequestWordsAreExactlyThese := by
  unfold Obligations.RejectedRequestWordsAreExactlyThese
  intro w
  refine ⟨?_, fun hw s hb hreq => ⟨_, react_engine_rejected hb hreq hw, failWith_failedWith _ _ _⟩⟩
  simp only [decodeReq_isOk_iff, ← BitVec.toNat_inj, reqUnit_toNat, reqReservedLo_toNat, reqKind_toNat, reqArg_toNat,
    reqReservedHi_toNat, BitVec.ofNat_eq_ofNat, BitVec.toNat_ofNat]
  omega

/-- Settles O13: the range check comes before any register is read. -/
theorem lppIndexOutOfRangeIsInvalidArgument : Obligations.LppIndexOutOfRangeIsInvalidArgument := by
  unfold Obligations.LppIndexOutOfRangeIsInvalidArgument
  exact ⟨fun s k hk => ⟨_, exec_lppEntry_of_le hk, failWith_failedWith _ _ _⟩,
    fun s n hn => ⟨_, exec_lppFrame_of_lt hn, failWith_failedWith _ _ _⟩⟩

/-- Settles O57: each pair of the list is a sensor kind with its instruction, and an entry's bytes fit `OUT`. -/
theorem sensorRowsRunAsTheirEntryRequest : Obligations.SensorRowsRunAsTheirEntryRequest := by
  unfold Obligations.SensorRowsRunAsTheirEntryRequest
  intro s k en w hok hk hen hreq harg i hi
  have hsensor : sensorOfKind en.sk.toNat en.ch = some i := by
    simp only [List.mem_cons, Prod.mk.injEq, List.not_mem_nil, or_false] at hi
    rcases hi with ⟨hsk, rfl⟩ | ⟨hsk, rfl⟩ | ⟨hsk, rfl⟩ | ⟨hsk, rfl⟩ | ⟨hsk, rfl⟩ | ⟨hsk, rfl⟩ <;> rw [hsk] <;> rfl
  have hsame := exec_sensor_eq_lppEntry hen hreq harg hsensor
  have hrun := hsame.trans (exec_lppEntry_written hk hen)
  refine ⟨hsame, fun F hF => ?_, fun c x herr => ?_⟩
  · have hfits : F.length ≤ s.cfg.outCap := by
      have := entryBytes_length hF
      have := (outCap_room hok).1
      omega
    rw [hF] at hrun
    exact ⟨_, hrun.trans (complete_ok hfits), succeed_completedWith hok hfits⟩
  · rw [herr] at hrun
    exact ⟨_, hrun.trans (complete_raise c x s), failWith_failedWith c x s⟩

/-- Settles O58: the entry encoder checks the written bit, then the sensor kind. -/
theorem unsupportedOrUnwrittenEntryStops : Obligations.UnsupportedOrUnwrittenEntryStops := by
  unfold Obligations.UnsupportedOrUnwrittenEntryStops
  refine fun s k hk => ⟨fun en hen hsk => ?_, exec_lppEntry_unwritten hk⟩
  have hrun := exec_lppEntry_written hk hen
  rw [entryBytes_unsupported hsk] at hrun
  exact ⟨_, hrun, failWith_failedWith .unsupportedSensorKind k s⟩

/-- Settles O14, by the table of opcodes and by the head of a command frame. -/
theorem opcodesTellTheRowsApart : Obligations.OpcodesTellTheRowsApart := by
  unfold Obligations.OpcodesTellTheRowsApart
  refine ⟨rfl, by decide, fun row c num str F hF => ?_⟩
  obtain ⟨bs, rfl⟩ := encodeCommand_head hF
  exact getElem?_rowHead row bs
end

section
namespace Sys2Proof.Machine

/-! ### Runs along the order of events (R44, log entry 8) -/

theorem core_run_succ {M : Host.Core} {s t : M.State} (h : M.step s = .next t) (k : Nat) : M.run (k + 1) s = M.run k t := by
  simp only [Host.Core.run, h]

/-- A run that is not stopped has taken its first step and gone on. -/
theorem core_run_succ_next {M : Host.Core} {s t : M.State} {k : Nat} (h : M.run (k + 1) s = .next t) :
    ∃ u, M.step s = .next u ∧ M.run k u = .next t := by
  cases hstep : M.step s with
  | next u => exact ⟨u, rfl, (core_run_succ hstep k).symm.trans h⟩
  | fault r => simp [Host.Core.run, hstep] at h
  | refused r => simp [Host.Core.run, hstep] at h

theorem run_of_step {s t : State} (h : step s = .next t) (k : Nat) :
    Host.Core.run Sys2Proof.core (k + 1) s = Host.Core.run Sys2Proof.core k t :=
  core_run_succ (M := Sys2Proof.core) (s := s) (t := t) h k

theorem step_of_run {s t : State} {k : Nat} (h : Host.Core.run Sys2Proof.core (k + 1) s = .next t) :
    ∃ u, step s = .next u ∧ Host.Core.run Sys2Proof.core k u = .next t :=
  core_run_succ_next (M := Sys2Proof.core) (s := s) (t := t) h

/-- The state after a list of transactions. -/
abbrev transactAll (xs : List Transaction) (s : State) : State := xs.foldl (fun a x => transact x a) s

/-- A transaction neither reads nor changes the order of the events to come. -/
theorem transact_withEvents (x : Transaction) (s : State) (es : List Event) :
    transact x { s with events := es } = { transact x s with events := es } := by
  have hdropped : dropped x { s with events := es } = dropped x s := by cases x <;> rfl
  cases hd : dropped x s with
  | true => rw [transact_dropped hd, transact_dropped (hdropped.trans hd)]; rfl
  | false =>
    rw [transact_accepted hd, transact_accepted (hdropped.trans hd)]
    cases x with
    | writeNum i v => simp only [accept, acceptWriteNum]; split <;> rfl
    | writeStr j b => simp only [accept, acceptWriteStr]; split <;> rfl
    | writeEntry | start | readStatus | readOutLen | readOut | clear => rfl

/-- The host transactions at the head of the order take one step each. -/
theorem run_transactions (xs : List Transaction) (s : State) (rest : List Event) (k : Nat) :
    Host.Core.run Sys2Proof.core (xs.length + k) { s with events := xs.map .host ++ rest } =
      Host.Core.run Sys2Proof.core k { transactAll xs s with events := rest } := by
  induction xs generalizing s with
  | nil => rw [List.length_nil, Nat.zero_add]; rfl
  | cons x xs ih =>
    have hstep : step { s with events := (x :: xs).map .host ++ rest } =
        .next { transact x s with events := xs.map .host ++ rest } :=
      congrArg Host.Outcome.next (transact_withEvents x s _)
    rw [List.length_cons, Nat.add_right_comm]
    exact (run_of_step hstep _).trans (ih (transact x s))

theorem run_transactions_of_events {xs : List Transaction} {s : State} {rest : List Event} {k m : Nat}
    (h : s.events = xs.map .host ++ rest) (hm : m = xs.length + k) :
    Host.Core.run Sys2Proof.core m s = Host.Core.run Sys2Proof.core k { transactAll xs s with events := rest } := by
  subst hm
  have hrun := run_transactions xs s rest k
  rw [← h] at hrun
  exact hrun

/-! ### The reads and what they return (R41, R81 to R83, log entry 10) -/

/-- What a read transaction returns; `none` for the other transactions. -/
def readReply (s : State) : Transaction → Option Reply
  | .readStatus => some (.status (readStatus s))
  | .readOutLen => some (.outLen (readOutLen s))
  | .readOut a => some (.out (readOut s a))
  | .writeNum _ _ | .writeStr _ _ | .writeEntry _ _ _ _ _ | .start _ | .clear => none

theorem transact_of_readReply {s : State} {x : Transaction} {r : Reply} (h : readReply s x = some r) :
    transact x s = reply r s := by
  cases x with
  | readStatus | readOutLen | readOut => cases h; rfl
  | writeNum | writeStr | writeEntry | start | clear => cases h

/-- A reply leaves what the later reads return. -/
theorem readReply_reply (r : Reply) (s : State) : readReply (reply r s) = readReply s := by
  funext x
  cases x <;> rfl

/-- A list of reads adds its replies to the record and changes nothing else. -/
theorem transactAll_reads {s : State} {xs : List Transaction} {rs : List Reply} (h : xs.map (readReply s) = rs.map some) :
    transactAll xs s = { s with replies := s.replies ++ rs } := by
  induction xs generalizing s rs with
  | nil =>
    obtain rfl : rs = [] := by simpa using h.symm
    simp
  | cons x xs ih =>
    cases rs with
    | nil => cases h
    | cons r rs =>
      obtain ⟨hx, hxs⟩ := List.cons.inj h
      have hrest : xs.map (readReply (reply r s)) = rs.map some := by rw [readReply_reply]; exact hxs
      rw [transactAll, List.foldl_cons, transact_of_readReply hx]
      simpa [reply] using ih hrest

theorem transactAll_statusReads (n : Nat) (s : State) :
    transactAll (List.replicate n .readStatus) s =
      { s with replies := s.replies ++ List.replicate n (.status (statusWord s.status)) } :=
  transactAll_reads (by simp [readReply, readStatus])

/-! ### POLL (R73) -/

/-- A completion changes neither the order of events nor the record of replies, and the operation is over (R86, R87). -/
theorem EngineResult.completed {s t : State} (h : EngineResult s t) :
    t.events = s.events ∧ t.replies = s.replies ∧ t.status.busy = false ∧ t.status.done = true := by
  rcases h with ⟨F, -, rfl⟩ | ⟨c, i, rfl⟩ <;> exact ⟨rfl, rfl, rfl, rfl⟩

theorem step_engine_result {s t : State} {rest : List Event} (h : step s = .next t)
    (hev : s.events = .engine :: rest) (hb : s.status.busy = true) : EngineResult { s with events := rest } t := by
  have hbusy : { s with events := rest }.status.busy = true := hb
  rw [step_of_events_cons hev, react_engine_busy hbusy] at h
  exact performRequest_result h

end Sys2Proof.Machine

open Sys2Proof Sys2Proof.Machine

/-- Settles O34: the busy reads leave the operation running, the engine's step completes it, and one read more sees it. -/
theorem pollEndsWithTheOperationComplete : Obligations.PollEndsWithTheOperationComplete := by
  unfold Obligations.PollEndsWithTheOperationComplete
  intro s t n hb hevents hrun
  have hreads : s.events = (List.replicate n Transaction.readStatus).map .host ++ [.engine, .host .readStatus] := by
    rw [hevents, pollEvents, List.map_replicate]
  rw [run_transactions_of_events (k := 2) hreads (by simp), transactAll_statusReads] at hrun
  obtain ⟨u, hstep, hlast⟩ := step_of_run hrun
  obtain ⟨hev, hreplies, hidle, hdone⟩ := (step_engine_result hstep rfl hb).completed
  have hread : Host.Core.run Sys2Proof.core 1 u = .next { transact .readStatus u with events := [] } :=
    run_transactions_of_events (xs := [.readStatus]) (k := 0) hev rfl
  obtain rfl := Host.Outcome.next.inj (hread.symm.trans hlast)
  refine ⟨hidle, hdone, rfl, ?_⟩
  show u.replies ++ [.status (readStatus u)] = _
  rw [hreplies]
  rfl
end

section
namespace Sys2Proof.Machine

/-! ### The completion step performs the request (R61, R85, R88) -/

/-- The engine's dispatch by instruction completes with what the registry's lookup by kind identifier encodes. -/
theorem performRequest_eq_complete (s : State) :
    performRequest s = complete (perform s.cfg (requestWord s) s.num s.str s.ent) s := by
  unfold performRequest decodeReq perform
  generalize requestWord s = w
  by_cases hres : reqReservedLo w ≠ 0 ∨ reqReservedHi w ≠ 0
  · rw [if_pos hres, if_pos hres]
    rfl
  · rw [if_neg hres, if_neg hres]
    rcases reqUnit_cases w with hu | hu | hu | hu
    · by_cases harg : reqArg w = 0#8
      · cases hcmd : commandOfKind (reqKind w).toNat with
        | none => simp [hu, harg, commandOfKind_none hcmd, complete_raise]
        | some i =>
          obtain ⟨row, hrow, hexec⟩ := commandOfKind_row hcmd
          simp [hu, harg, hrow, hexec, runCommand]
      · simp [hu, harg, complete_raise]
    · by_cases hkind : reqKind w = 0#8
      · by_cases hk : s.cfg.lppSlots ≤ (reqArg w).toNat <;> simp [hu, hkind, exec, execLppEntry, hk, complete_raise]
      · simp [hu, hkind, complete_raise]
    · by_cases hkind : reqKind w = 0#8
      · by_cases hn : s.cfg.lppSlots < (reqArg w).toNat <;> simp [hu, hkind, exec, execLppFrame, hn, complete_raise]
      · simp [hu, hkind, complete_raise]
    · simp [hu, complete_raise]

/-! ### The argument writes of a call (R74, R77 to R79) -/

/-- A transaction that writes an argument register. -/
def IsArgumentWrite (x : Transaction) : Prop :=
  (∃ i v, x = .writeNum i v) ∨ (∃ j b, x = .writeStr j b) ∨ ∃ k ew c0 c1 c2, x = .writeEntry k ew c0 c1 c2

/-- An idle LFS accepts a well-formed argument write, which leaves STATUS and the record of replies. -/
theorem transact_argumentWrite {x : Transaction} {s : State} (hx : IsArgumentWrite x) (hwf : x.wellFormed s.cfg = true)
    (hb : s.status.busy = false) :
    (transact x s).status = s.status ∧ (transact x s).replies = s.replies := by
  have haccept : dropped x s = false := by
    rcases hx with ⟨i, v, rfl⟩ | ⟨j, b, rfl⟩ | ⟨k, ew, c0, c1, c2, rfl⟩ <;>
      simpa [dropped, hb, Transaction.wellFormed] using hwf
  rw [transact_accepted haccept]
  rcases hx with ⟨i, v, rfl⟩ | ⟨j, b, rfl⟩ | ⟨k, ew, c0, c1, c2, rfl⟩ <;> simp [accept]

theorem transactAll_cfg (xs : List Transaction) (s : State) : (transactAll xs s).cfg = s.cfg := by
  induction xs generalizing s with
  | nil => rfl
  | cons x xs ih => exact (ih _).trans (transact_cfg x s)

theorem transactAll_argumentWrites {ws : List Transaction} {s : State}
    (hws : ∀ x ∈ ws, IsArgumentWrite x ∧ x.wellFormed s.cfg = true) (hb : s.status.busy = false) :
    (transactAll ws s).status = s.status ∧ (transactAll ws s).replies = s.replies := by
  induction ws generalizing s with
  | nil => exact ⟨rfl, rfl⟩
  | cons x ws ih =>
    obtain ⟨hx, hwf⟩ := hws x List.mem_cons_self
    obtain ⟨hst, hreplies⟩ := transact_argumentWrite hx hwf hb
    have hrest : ∀ y ∈ ws, IsArgumentWrite y ∧ y.wellFormed (transact x s).cfg = true := by
      rw [transact_cfg]
      exact fun y hy => hws y (List.mem_cons_of_mem x hy)
    obtain ⟨hst', hreplies'⟩ := ih hrest (by rw [hst, hb])
    exact ⟨hst'.trans hst, hreplies'.trans hreplies⟩

/-- The strings in `S0` and `S1` are within `STR_CAP` (R22). -/
def StringsFit (s : State) : Prop := ∀ r b, readStr s.str r = some b → b.length ≤ s.cfg.strCap

/-- An over-long string is dropped (R76), so every transaction keeps the strings within `STR_CAP`. -/
theorem StringsFit.transact {s : State} (h : StringsFit s) (x : Transaction) : StringsFit (transact x s) := by
  unfold StringsFit
  rw [transact_cfg]
  cases hd : dropped x s with
  | true => rw [transact_dropped hd]; exact h
  | false =>
    rw [transact_accepted hd]
    cases x with
    | writeStr j b =>
      have hb : b.length ≤ s.cfg.strCap := by
        simp only [dropped, Bool.or_eq_false_iff, decide_eq_false_iff_not] at hd
        omega
      intro r b' hr
      simp only [accept, acceptWriteStr] at hr
      split at hr
      · rw [readStr_writeStr] at hr
        split_ifs at hr
        · cases hr; exact hb
        · exact h r b' hr
      · exact h r b' hr
    | writeNum i v => rw [accept, acceptWriteNum_str]; exact h
    | writeEntry | start | readStatus | readOutLen | readOut | clear => exact h

theorem StringsFit.transactAll {s : State} (h : StringsFit s) (xs : List Transaction) : StringsFit (transactAll xs s) := by
  induction xs generalizing s with
  | nil => exact h
  | cons x xs ih => exact ih (h.transact x)

/-! ### The STATUS word as a caller reads it (R25, R73) -/

theorem statusWord_toNat (st : Status) : (statusWord st).toNat = st.busy.toNat + 2 * st.done.toNat + 4 * st.err.toNat +
    8 * st.drop.toNat + 16 * st.ecode.toNat + 256 * st.eidx.toNat := by
  have := st.busy.toNat_lt
  have := st.done.toNat_lt
  have := st.err.toNat_lt
  have := st.drop.toNat_lt
  have := st.ecode.isLt
  have := st.eidx.isLt
  rw [statusWord, BitVec.toNat_ofNat]
  omega

theorem statusWord_busyBit (st : Status) : (statusWord st).getLsbD 0 = st.busy := by
  have hbit : (statusWord st).toNat % 2 = st.busy.toNat := by
    have := st.busy.toNat_lt
    rw [statusWord_toNat]
    omega
  rw [BitVec.getLsbD, Nat.testBit_zero, hbit]
  cases st.busy <;> rfl

theorem statusWord_errBit (st : Status) : (statusWord st).getLsbD 2 = st.err := by
  have hbit : (statusWord st).toNat / 2 ^ 2 % 2 = st.err.toNat := by
    have := st.busy.toNat_lt
    have := st.done.toNat_lt
    have := st.err.toNat_lt
    rw [statusWord_toNat]
    omega
  rw [BitVec.getLsbD, Nat.testBit_eq_decide_div_mod_eq, hbit]
  cases st.err <;> rfl

theorem statusWord_ecodeBits (st : Status) : (statusWord st).extractLsb' 4 4 = st.ecode := by
  have := st.busy.toNat_lt
  have := st.done.toNat_lt
  have := st.err.toNat_lt
  have := st.drop.toNat_lt
  have := st.ecode.isLt
  apply BitVec.eq_of_toNat_eq
  rw [BitVec.extractLsb'_toNat, statusWord_toNat, Nat.shiftRight_eq_div_pow]
  omega

theorem statusWord_statusStarted (st : Status) :
    statusWord (statusStarted st) = BitVec.ofNat 32 (1 + 8 * st.drop.toNat) := by
  simp [statusWord]

theorem statusWord_statusSucceeded (st : Status) :
    statusWord (statusSucceeded st) = BitVec.ofNat 32 (2 + 8 * st.drop.toNat) := by
  simp [statusWord]

/-! ### The result of a call from its replies (R73, R74) -/

theorem callResult_busyReads {w : BitVec 32} (h : w.getLsbD 0 = true) (n : Nat) (rs : List Reply) :
    callResult (List.replicate n (.status w) ++ rs) = callResult rs := by
  induction n with
  | zero => rfl
  | succ n ih =>
    rw [List.replicate_succ, List.cons_append]
    exact (if_pos h).trans ih

@[simp] theorem outBytes_map_out (F : Bytes) : outBytes (F.map .out) = some F := by
  induction F with
  | nil => rfl
  | cons b F ih => simp [outBytes, ih]

theorem callResult_completed {w : BitVec 32} {F : Bytes} (hidle : w.getLsbD 0 = false) (hF : F.length < 2 ^ 16) :
    callResult (.status w :: .outLen (BitVec.ofNat 16 F.length) :: F.map .out) =
      some (if w.getLsbD 2 then .error (w.extractLsb' 4 4) else .frame F) := by
  have hlen : F.length = (BitVec.ofNat 16 F.length).toNat := by simp; omega
  unfold callResult
  rw [if_neg (ne_true_of_eq_false hidle)]
  simp only [outBytes_map_out, if_pos hlen]

end Sys2Proof.Machine
end

section
namespace Sys2Proof.Machine

/-! ### The run of a call (R73, R74) -/

/-- The reads that end a call: the status after the completion, the length, and the bytes of the frame (R74). -/
def resultReads (len : Nat) : List Transaction :=
  .readStatus :: .readOutLen :: (List.range len).map fun a => .readOut (BitVec.ofNat 16 a)

/-- A call's events: the writes, `START` and the busy reads, then the engine's step, then the result's reads. -/
theorem call_events_eq (ws : List Transaction) (w : ReqWord) (n len : Nat) :
    ws.map Event.host ++ callEvents w n len =
      (ws ++ Transaction.start w :: List.replicate n Transaction.readStatus).map .host ++ .engine :: (resultReads len).map .host := by
  simp [callEvents, pollEvents, resultReads, readFrameEvents, Function.comp_def]

/-- `START w` accepted in `u`, and the status read busy `n` times. -/
def started (w : ReqWord) (n : Nat) (u : State) : State :=
  { acceptStart w u with
    replies := u.replies ++ List.replicate n (.status (statusWord (statusStarted u.status))) }

theorem transactAll_started {ws : List Transaction} {s : State} (w : ReqWord) (n : Nat)
    (hidle : (transactAll ws s).status.busy = false) :
    transactAll (ws ++ .start w :: List.replicate n .readStatus) s = started w n (transactAll ws s) := by
  have hstart : transact (.start w) (transactAll ws s) = acceptStart w (transactAll ws s) := transact_accepted hidle
  rw [transactAll, List.foldl_append, List.foldl_cons, hstart]
  exact transactAll_statusReads n _

/-- The state that the engine's step completes in a call: the result's reads are the events left. -/
def completing (w : ReqWord) (n len : Nat) (u : State) : State :=
  { started w n u with events := (resultReads len).map .host }

/-- A call runs to the state in which the request that `perform` answers has completed and the result has been read. -/
theorem run_call {s v : State} {ws : List Transaction} {w : ReqWord} {n len : Nat} {rs : List Reply}
    (hev : s.events = ws.map .host ++ callEvents w n len) (hidle : (transactAll ws s).status.busy = false)
    (hdone : complete (perform s.cfg w (transactAll ws s).num (transactAll ws s).str (transactAll ws s).ent)
      (completing w n len (transactAll ws s)) = .next v)
    (hreads : (resultReads len).map (readReply v) = rs.map some) :
    Host.Core.run Sys2Proof.core (ws.length + n + len + 4) s = .next { v with events := [], replies := v.replies ++ rs } := by
  have hengine : step { started w n (transactAll ws s) with events := .engine :: (resultReads len).map .host } = .next v := by
    rw [← transactAll_cfg ws s] at hdone
    exact (performRequest_eq_complete _).trans hdone
  have hevents : v.events = (resultReads len).map .host ++ [] := by
    rw [List.append_nil]
    exact (complete_result hdone).completed.1
  have hread : Host.Core.run Sys2Proof.core (len + 2) v = .next { transactAll (resultReads len) v with events := [] } :=
    run_transactions_of_events (k := 0) hevents (by simp [resultReads])
  rw [run_transactions_of_events (k := len + 3) (hev.trans (call_events_eq ws w n len)) (by simp; omega),
    transactAll_started w n hidle, run_of_step hengine, hread, transactAll_reads hreads]

theorem readOut_succeed {F : Bytes} (hF : F.length < 2 ^ 16) (s : State) {a : Nat} (ha : a < F.length) :
    readOut (succeed F s) (BitVec.ofNat 16 a) = F[a] := by
  have hmod : a % 65536 = a := Nat.mod_eq_of_lt (by omega)
  have hlen : F.length % 65536 = F.length := Nat.mod_eq_of_lt hF
  simp [readOut, hmod, hlen, ha, Memory.read_write]

/-- After a success the reads return the status, the length and the frame. -/
theorem resultReads_succeed {F : Bytes} (hF : F.length < 2 ^ 16) (s : State) :
    (resultReads F.length).map (readReply (succeed F s)) =
      (.status (statusWord (statusSucceeded s.status)) :: .outLen (BitVec.ofNat 16 F.length) :: F.map Reply.out).map some := by
  have hbytes : (List.range F.length).map (fun a => readReply (succeed F s) (.readOut (BitVec.ofNat 16 a))) =
      F.map fun b => some (Reply.out b) := by
    apply List.ext_getElem
    · simp
    · intro a ha _
      have ha : a < F.length := by simpa using ha
      simp [readReply, readOut_succeed hF s ha]
  simp only [resultReads, List.map_cons, List.map_map, Function.comp_def, hbytes]
  rfl

/-- After an error the reads return the status and the length 0. -/
theorem resultReads_failWith (c : ErrorCode) (i : Byte) {s : State} (hlen : s.outLen = 0) :
    (resultReads 0).map (readReply (failWith c i s)) =
      [Reply.status (statusWord (statusFailed c i s.status)), .outLen 0].map some := by
  rw [← hlen]
  rfl

end Sys2Proof.Machine
end

section
namespace Sys2Proof.Machine

/-! ### The registers that a command's arguments are written to (R74, R95) -/

/-- The arguments of a row whose first field names a register: one write for it, and the writes of the other fields. -/
theorem argumentWrites_cons {fd : FieldKind} {rest : List FieldKind} {args : List CallArg} {ws : List Transaction}
    (hnames : ¬(fieldNum fd = none ∧ fieldStr fd = none)) (h : argumentWrites (fd :: rest) args = some ws) :
    ∃ a more t ts, args = a :: more ∧ argumentWrite fd a = some t ∧ argumentWrites rest more = some ts ∧ ws = t :: ts := by
  unfold argumentWrites at h
  rw [if_neg hnames] at h
  cases args with
  | nil => cases h
  | cons a more =>
    cases ht : argumentWrite fd a with
    | none => simp [ht] at h
    | some t =>
      cases hts : argumentWrites rest more with
      | none => simp [ht, hts] at h
      | some ts =>
        simp only [ht, hts, Option.some.injEq] at h
        exact ⟨a, more, t, ts, rfl, ht, hts, h.symm⟩

theorem fieldStr_of_fieldNum {fd : FieldKind} {r : NReg} (h : fieldNum fd = some r) : fieldStr fd = none := by
  cases fd with
  | const | text | padT | padX | prefix6 | raw => cases h
  | uint | enum | flag | sfix | ufix => rfl

/-- An argument is written to the one register that its field names. -/
theorem argumentWrite_cases {fd : FieldKind} {a : CallArg} {t : Transaction} (h : argumentWrite fd a = some t) :
    (∃ r v, fieldNum fd = some r ∧ fieldStr fd = none ∧ t = .writeNum (numIndex r) v) ∨
      ∃ r b, fieldNum fd = none ∧ fieldStr fd = some r ∧ t = .writeStr (strIndex r) b := by
  cases hnum : fieldNum fd with
  | some r =>
    cases a with
    | num v =>
      simp only [argumentWrite, hnum] at h
      split_ifs at h
      cases h
      exact .inl ⟨r, _, rfl, fieldStr_of_fieldNum hnum, rfl⟩
    | str b => simp [argumentWrite, hnum] at h
  | none =>
    cases hstr : fieldStr fd with
    | none => simp [argumentWrite, hnum, hstr] at h
    | some r =>
      cases a with
      | num v => simp [argumentWrite, hnum, hstr] at h
      | str b =>
        simp only [argumentWrite, hnum, hstr] at h
        cases h
        exact .inr ⟨r, _, rfl, rfl, rfl⟩

/-- `u` is `s` with the registers written that `fields` name, and no other: none becomes unwritten. -/
structure ArgumentsWritten (fields : List FieldKind) (s u : State) : Prop where
  written : ∀ fd ∈ fields, fieldWritten u.num u.str fd = true
  kept : ∀ fd, fieldWritten s.num s.str fd = true → fieldWritten u.num u.str fd = true
  num : ∀ r, (∀ fd ∈ fields, fieldNum fd ≠ some r) → readNum u.num r = readNum s.num r
  str : ∀ r, (∀ fd ∈ fields, fieldStr fd ≠ some r) → readStr u.str r = readStr s.str r

/-- A field that names no register needs no write. -/
theorem ArgumentsWritten.of_unnamed {fd : FieldKind} (h : fieldNum fd = none ∧ fieldStr fd = none) (s : State) :
    ArgumentsWritten [fd] s s where
  written := by simp [fieldWritten, h]
  kept _ hw := hw
  num _ _ := rfl
  str _ _ := rfl

theorem ArgumentsWritten.of_writeNum {fd : FieldKind} {r : NReg} (hnum : fieldNum fd = some r) (hstr : fieldStr fd = none)
    (s : State) (v : Word64) : ArgumentsWritten [fd] s { s with num := writeNum s.num r v } where
  written := by simp [fieldWritten, hnum, hstr, readNum_writeNum]
  kept fd' hw := by
    cases hn : fieldNum fd' with
    | none => simpa [fieldWritten, hn] using hw
    | some q => by_cases hq : q = r <;> simp_all [fieldWritten, readNum_writeNum]
  num q hq := by
    have hne : q ≠ r := fun e => hq fd List.mem_cons_self (e ▸ hnum)
    simp [readNum_writeNum, hne]
  str _ _ := rfl

theorem ArgumentsWritten.of_writeStr {fd : FieldKind} {r : SReg} (hnum : fieldNum fd = none) (hstr : fieldStr fd = some r)
    (s : State) (b : Bytes) : ArgumentsWritten [fd] s { s with str := writeStr s.str r b } where
  written := by simp [fieldWritten, hnum, hstr, readStr_writeStr]
  kept fd' hw := by
    cases hs : fieldStr fd' with
    | none => simpa [fieldWritten, hs] using hw
    | some q => by_cases hq : q = r <;> simp_all [fieldWritten, readStr_writeStr]
  num _ _ := rfl
  str q hq := by
    have hne : q ≠ r := fun e => hq fd List.mem_cons_self (e ▸ hstr)
    simp [readStr_writeStr, hne]

theorem ArgumentsWritten.cons {fd : FieldKind} {rest : List FieldKind} {s t u : State} (h : ArgumentsWritten [fd] s t)
    (hrest : ArgumentsWritten rest t u) : ArgumentsWritten (fd :: rest) s u where
  written := List.forall_mem_cons.mpr ⟨hrest.kept fd (h.written fd List.mem_cons_self), hrest.written⟩
  kept fd' hw := hrest.kept fd' (h.kept fd' hw)
  num r hr := by
    obtain ⟨hfd, hr⟩ := List.forall_mem_cons.mp hr
    exact (hrest.num r hr).trans (h.num r (by simpa using hfd))
  str r hr := by
    obtain ⟨hfd, hr⟩ := List.forall_mem_cons.mp hr
    exact (hrest.str r hr).trans (h.str r (by simpa using hfd))

/-- An idle LFS takes the write of an argument that fits (R77, R78). -/
theorem transact_argumentWrites_head {fd : FieldKind} {a : CallArg} {t : Transaction} {s : State}
    (h : argumentWrite fd a = some t) (hb : s.status.busy = false) (hwf : t.wellFormed s.cfg = true) :
    ArgumentsWritten [fd] s (transact t s) ∧ (transact t s).status = s.status := by
  rcases argumentWrite_cases h with ⟨r, v, hnum, hstr, rfl⟩ | ⟨r, b, hnum, hstr, rfl⟩
  · rw [transact_writeNum hb]
    exact ⟨.of_writeNum hnum hstr s v, rfl⟩
  · have hfits : b.length ≤ s.cfg.strCap := by
      simp only [Transaction.wellFormed, Bool.and_eq_true, decide_eq_true_eq] at hwf
      exact hwf.2
    rw [transact_writeStr hb r hfits]
    exact ⟨.of_writeStr hnum hstr s b, rfl⟩

/-- The argument writes of a command call reach exactly the registers that its row names (R74). -/
theorem transactAll_argumentsWritten {fields : List FieldKind} {args : List CallArg} {ws : List Transaction} {s : State}
    (h : argumentWrites fields args = some ws) (hb : s.status.busy = false) (hwf : ∀ x ∈ ws, x.wellFormed s.cfg = true) :
    ArgumentsWritten fields s (transactAll ws s) := by
  induction fields generalizing args ws s with
  | nil =>
    unfold argumentWrites at h
    split_ifs at h
    cases h
    exact ⟨by simp, fun _ hw => hw, fun _ _ => rfl, fun _ _ => rfl⟩
  | cons fd rest ih =>
    by_cases hnames : fieldNum fd = none ∧ fieldStr fd = none
    · unfold argumentWrites at h
      rw [if_pos hnames] at h
      exact (ArgumentsWritten.of_unnamed hnames s).cons (ih h hb hwf)
    · obtain ⟨a, more, t, ts, rfl, ht, hts, rfl⟩ := argumentWrites_cons hnames h
      obtain ⟨hwft, hwfts⟩ := List.forall_mem_cons.mp hwf
      obtain ⟨hhead, hst⟩ := transact_argumentWrites_head ht hb hwft
      exact hhead.cons (ih hts (by rw [hst, hb]) (by rwa [transact_cfg]))

/-! ### The three parts of R74 -/

/-- A call of which `perform` makes the frame `F`: the host is given the busy words, the success word, the length and the
bytes, and the call returns `F`. -/
theorem call_returns_frame {s : State} {ws : List Transaction} {w : ReqWord} {n : Nat} {F : Bytes} (hinv : s.Inv)
    (hb : s.status.busy = false) (hws : ∀ x ∈ ws, IsArgumentWrite x ∧ x.wellFormed s.cfg = true)
    (hF : perform s.cfg w (transactAll ws s).num (transactAll ws s).str (transactAll ws s).ent = .ok F)
    (hev : s.events = ws.map .host ++ callEvents w n F.length) :
    ∃ t new, Host.Core.run Sys2Proof.core (ws.length + n + F.length + 4) s = .next t ∧ t.replies = s.replies ++ new ∧
      new = List.replicate n (.status (BitVec.ofNat 32 (1 + 8 * s.status.drop.toNat))) ++
        [.status (BitVec.ofNat 32 (2 + 8 * s.status.drop.toNat)), .outLen (BitVec.ofNat 16 F.length)] ++ F.map .out ∧
      callResult new = some (.frame F) := by
  obtain ⟨hst, hreplies⟩ := transactAll_argumentWrites hws hb
  have hcfg := transactAll_cfg ws s
  have hfits : F.length ≤ s.cfg.outCap := by
    have hok : (transactAll ws s).cfg.Ok := hcfg ▸ hinv.cfgOk
    have hstrings : StringsFit (transactAll ws s) := StringsFit.transactAll hinv.strFits ws
    have := everyFrameFitsTheOutputBuffer (transactAll ws s) w F hok hstrings (hcfg.symm ▸ hF)
    rwa [hcfg] at this
  have h16 : F.length < 2 ^ 16 := by
    have := hinv.cfgOk.2.2.2
    omega
  have hdone : complete (perform s.cfg w (transactAll ws s).num (transactAll ws s).str (transactAll ws s).ent)
      (completing w n F.length (transactAll ws s)) =
        .next (succeed F (completing w n F.length (transactAll ws s))) := by
    rw [hF]
    exact complete_ok (hcfg.symm ▸ hfits)
  have hrun := run_call hev (by rw [hst, hb]) hdone (resultReads_succeed h16 _)
  have hbusy : (BitVec.ofNat 32 (1 + 8 * s.status.drop.toNat)).getLsbD 0 = true := by
    rw [← statusWord_statusStarted, statusWord_busyBit]
    rfl
  refine ⟨_, _, hrun, ?_, rfl, ?_⟩
  · simp [completing, started, hst, hreplies, statusWord_statusStarted, statusWord_statusSucceeded]
  · rw [List.append_assoc, callResult_busyReads hbusy]
    rw [← statusWord_statusSucceeded]
    refine (callResult_completed ?_ h16).trans ?_
    · rw [statusWord_busyBit]
      rfl
    · rw [statusWord_errBit]
      rfl

/-- A call of which `perform` makes an error returns the error's code. -/
theorem call_returns_error {s : State} {ws : List Transaction} {w : ReqWord} {n : Nat} {c : ErrorCode} {i : Byte}
    (hb : s.status.busy = false) (hws : ∀ x ∈ ws, IsArgumentWrite x ∧ x.wellFormed s.cfg = true)
    (herr : perform s.cfg w (transactAll ws s).num (transactAll ws s).str (transactAll ws s).ent = .error (.raise c i))
    (hev : s.events = ws.map .host ++ callEvents w n 0) :
    ∃ t new, Host.Core.run Sys2Proof.core (ws.length + n + 4) s = .next t ∧ t.replies = s.replies ++ new ∧
      callResult new = some (.error c.number) := by
  obtain ⟨hst, hreplies⟩ := transactAll_argumentWrites hws hb
  have hdone : complete (perform s.cfg w (transactAll ws s).num (transactAll ws s).str (transactAll ws s).ent)
      (completing w n 0 (transactAll ws s)) =
        .next (failWith c i (completing w n 0 (transactAll ws s))) := by
    rw [herr]
    exact complete_raise c i _
  have hrun := run_call hev (by rw [hst, hb]) hdone (resultReads_failWith c i rfl)
  refine ⟨_, List.replicate n (.status (statusWord (statusStarted s.status))) ++
    [.status (statusWord (statusFailed c i (statusStarted s.status))), .outLen 0], hrun, ?_, ?_⟩
  · simp [completing, started, hst, hreplies]
  · rw [callResult_busyReads (statusWord_busyBit _)]
    refine (callResult_completed (F := []) (statusWord_busyBit _) (by decide)).trans ?_
    rw [statusWord_errBit, statusWord_ecodeBits]
    rfl

end Sys2Proof.Machine

open Sys2Proof Sys2Proof.Machine

/-- Settles O35: the call's events run to the completion that `perform` gives, the argument writes reach the registers of
the row, and a frame call is there for what `LPP_SLOTS` admits. -/
theorem callFormReturnsTheFrame : Obligations.CallFormReturnsTheFrame := by
  unfold Obligations.CallFormReturnsTheFrame
  refine ⟨fun s ws w n hinv hb hws => ⟨fun F hF hev => ?_, fun c i herr hev => ?_⟩,
    fun kind row args ws s n len hrow hargs => ⟨?_, fun hb hwf => ?_⟩, fun c entries n len => ?_⟩
  · exact call_returns_frame hinv hb hws hF hev
  · exact call_returns_error hb hws herr hev
  · simp [encodeCommandCall, hrow, hargs]
  · obtain ⟨hwritten, -, hnum, hstr⟩ := transactAll_argumentsWritten hargs hb hwf
    exact ⟨List.all_eq_true.mpr hwritten, hnum, hstr⟩
  · unfold encodeLppFrameCall
    split_ifs with h <;> simp [h]
end

section
namespace Sys2Proof.Machine

/-! ### The bytes that `READ_OUT` returns (R28, R83) -/

theorem readOut_of_outLen_le {s : State} {a : BitVec 16} (h : s.outLen.toNat ≤ a.toNat) : readOut s a = 0 :=
  if_neg (Nat.not_lt.mpr h)

theorem readOut_of_read {s : State} {a : BitVec 16} {x : Byte} (ha : a.toNat < s.outLen.toNat)
    (hx : Memory.read s.out a.toNat = some x) : readOut s a = x := by
  simp [readOut, ha, hx]

/-- What is looked up under a key is listed under it. -/
theorem mem_of_lookupKey {α : Type} {l : List (Nat × α)} {k : Nat} {v : α} (h : lookupKey l k = some v) : (k, v) ∈ l := by
  induction l with
  | nil => cases h
  | cons p rest ih =>
    obtain ⟨j, u⟩ := p
    unfold lookupKey at h
    split_ifs at h with hkj
    · cases h
      exact hkj ▸ List.mem_cons_self
    · exact List.mem_cons_of_mem _ (ih h)

/-- The last frame lies within `OUT`: a byte of it at `OUT_CAP` would be known and would not exist (R28, R35). -/
theorem State.Inv.outLen_le_outCap {s : State} (h : s.Inv) : s.outLen.toNat ≤ s.cfg.outCap := by
  by_contra hgt
  obtain ⟨x, hx⟩ := Option.isSome_iff_exists.mp (h.outKnown s.cfg.outCap (Nat.not_le.mp hgt))
  exact absurd (h.outExists _ (mem_of_lookupKey hx)) (Nat.lt_irrefl _)

/-- While an operation runs there is no frame (R26, R181). -/
theorem State.StatusInv.outLen_of_busy {s : State} (h : s.StatusInv) (hb : s.status.busy = true) : s.outLen = 0 := by
  obtain ⟨-, -, -, -, hlen⟩ := h.busyClear hb
  exact hlen

/-- After a success `READ_OUT` returns the frame's bytes and zeros, whatever state the operation ran in (R83, R86). -/
theorem readOut_succeed_eq {F : Bytes} (hF : F.length < 2 ^ 16) (s : State) (a : BitVec 16) :
    readOut (succeed F s) a = F.getD a.toNat 0 := by
  have hlen : (succeed F s).outLen.toNat = F.length := by simpa using hF
  by_cases ha : a.toNat < F.length
  · refine readOut_of_read (hlen ▸ ha) ?_
    simp [Memory.read_write, ha]
  · rw [readOut_of_outLen_le (by omega), List.getD_eq_default _ _ (Nat.not_lt.mp ha)]

/-! ### The operation from its `START` to its completion (R80, R85 to R90) -/

theorem transact_start {s : State} (hb : s.status.busy = false) (w : ReqWord) : transact (.start w) s = acceptStart w s :=
  transact_accepted hb

/-- The completion step completes with what `perform` of the request gives (R85). -/
theorem react_engine_eq_complete {s : State} {w : ReqWord} (hb : s.status.busy = true) (hreq : s.req = some w) :
    react .engine s = complete (perform s.cfg w s.num s.str s.ent) s := by
  rw [react_engine_busy hb, performRequest_eq_complete, requestWord_some hreq]

/-- The operation of an accepted `START w` completes with what `perform w` of the registers gives (R80, R85). -/
theorem react_engine_start {s : State} (hb : s.status.busy = false) (w : ReqWord) :
    react .engine (transact (.start w) s) = complete (perform s.cfg w s.num s.str s.ent) (acceptStart w s) := by
  rw [transact_start hb]
  exact react_engine_eq_complete rfl rfl

/-- A completion writes no argument register, `REQ`, parameter or `DROP` (R86, R87, R90). -/
theorem EngineResult.keeps {s t : State} (h : EngineResult s t) :
    t.num = s.num ∧ t.str = s.str ∧ t.ent = s.ent ∧ t.req = s.req ∧ t.cfg = s.cfg ∧ t.status.drop = s.status.drop := by
  rcases h with ⟨F, -, rfl⟩ | ⟨c, i, rfl⟩ <;> exact ⟨rfl, rfl, rfl, rfl, rfl, rfl⟩

/-- The host can see the same results in two states (R81 to R83). -/
structure SameResults (s t : State) : Prop where
  status : t.status = s.status
  outLen : readOutLen t = readOutLen s
  out : ∀ a, readOut t a = readOut s a

/-- The results of an operation depend on what it encoded, the sizes and `DROP` only (R86, R87). -/
theorem complete_sameResults {r : Encoded} {s t u v : State} {w : ReqWord} (hok : s.cfg.Ok)
    (hdrop : t.status.drop = s.status.drop) (hu : complete r (acceptStart w s) = .next u)
    (hv : complete r (acceptStart w t) = .next v) : SameResults u v := by
  have hstarted : statusStarted t.status = statusStarted s.status := by simp [statusStarted, hdrop]
  rcases complete_next hu with ⟨F, rfl, hF, rfl⟩ | ⟨c, i, rfl, rfl⟩
  · rcases complete_next hv with ⟨_, ⟨⟩, -, rfl⟩ | ⟨_, _, ⟨⟩, -⟩
    have h16 : F.length < 2 ^ 16 := by
      have hcap : F.length ≤ s.cfg.outCap := hF
      have := hok.2.2.2
      omega
    exact ⟨congrArg statusSucceeded hstarted, rfl, fun a => by rw [readOut_succeed_eq h16, readOut_succeed_eq h16]⟩
  · rcases complete_next hv with ⟨_, ⟨⟩, -, -⟩ | ⟨_, _, ⟨⟩, rfl⟩
    exact ⟨congrArg (statusFailed c i) hstarted, rfl,
      fun a => by rw [readOut_of_outLen_zero rfl, readOut_of_outLen_zero rfl]⟩

end Sys2Proof.Machine

open Sys2Proof Sys2Proof.Machine

/-- Settles O22: below `OUT_LEN` the byte of `OUT` is returned, and `OUT_LEN` is at most `OUT_CAP`, and 0 while busy. -/
theorem readOutReturnsTheFrameByte : Obligations.ReadOutReturnsTheFrameByte := by
  unfold Obligations.ReadOutReturnsTheFrameByte
  intro s a
  refine ⟨readOut s a, rfl, fun x => readOut_of_read, readOut_of_outLen_le, fun hinv hcap => ?_, fun hinv hb => ?_⟩
  · exact readOut_of_outLen_le (hinv.outLen_le_outCap.trans hcap)
  · exact readOut_of_outLen_zero (hinv.outLen_of_busy hb) a

/-- Settles O27: the completion step completes with what `perform` gives, in each of its three outcomes. -/
theorem completionStepPerformsTheRequest : Obligations.CompletionStepPerformsTheRequest := by
  unfold Obligations.CompletionStepPerformsTheRequest
  intro s w hok hb hreq
  rw [react_engine_eq_complete hb hreq]
  refine ⟨fun F hF hfits => ?_, fun c i herr => ?_, fun hunwritten => ?_⟩
  · rw [hF]
    exact complete_completedWith hok hfits
  · rw [herr]
    exact complete_failedWith c i s
  · rw [hunwritten]
    exact complete_unwritten s

/-- Settles O29: an instruction that runs and a word that is rejected both end in a completion. -/
theorem operationsChangeNoArgumentRegister : Obligations.OperationsChangeNoArgumentRegister := by
  unfold Obligations.OperationsChangeNoArgumentRegister
  intro s t h
  have hresult : EngineResult s t := by
    rcases h with ⟨i, hexec⟩ | ⟨hb, hreact⟩
    · exact exec_result hexec
    · exact performRequest_result ((react_engine_busy hb).symm.trans hreact)
  obtain ⟨hnum, hstr, hent, hreq, hcfg, hdrop⟩ := hresult.keeps
  obtain ⟨hevents, hreplies, hidle, hdone⟩ := hresult.completed
  exact ⟨hnum, hstr, hent, hreq, hcfg, hevents, hreplies, hdrop, hidle, hdone⟩

/-- Settles O30: the first operation leaves what `perform` reads, so the second one encodes the same. -/
theorem repeatedRequestGivesTheSameFrame : Obligations.RepeatedRequestGivesTheSameFrame := by
  unfold Obligations.RepeatedRequestGivesTheSameFrame
  intro s t u w hok hb ht hu
  rw [react_engine_start hb] at ht
  have hresult : EngineResult (acceptStart w s) t := complete_result ht
  obtain ⟨hnum, hstr, hent, -, hcfg, hdrop⟩ := hresult.keeps
  obtain ⟨-, -, hidle, -⟩ := hresult.completed
  rw [react_engine_start hidle, hnum, hstr, hent, hcfg] at hu
  obtain ⟨hstatus, hlen, hout⟩ := complete_sameResults hok hdrop ht hu
  exact ⟨hstatus, hlen, hout⟩
end

section
namespace Sys2Proof.Machine

/-! ### Runs along events (R44, R85, R185; log entry 8) -/

theorem runEvents_succ {evs : Nat → Event} {s t : State} {m : Nat} (h : runEvents evs s m = .next t) :
    runEvents evs s (m + 1) = react (evs m) t := by
  simp only [runEvents, h]

/-- An event but reset either is the engine's step, which completes a running operation, or leaves it running (R85, R179). -/
theorem react_of_busy {s t : State} {ev : Event} (hb : s.status.busy = true) (hreset : ev ≠ .reset)
    (ht : react ev s = .next t) :
    (t.status.busy = false ∧ t.status.done = true) ∨ (ev ≠ .engine ∧ t.status.busy = true) := by
  cases ev with
  | host x =>
    cases ht
    obtain ⟨-, -, -, -, -, hbusy, -, -⟩ := transact_busy x hb
    exact .inr ⟨nofun, hbusy⟩
  | engine =>
    rw [react_engine_busy hb] at ht
    obtain ⟨-, -, hidle, hdone⟩ := (performRequest_result ht).completed
    exact .inl ⟨hidle, hdone⟩
  | reset => exact absurd rfl hreset

/-- A run that no reset and no fault ends, and in which an operation is running at `n` and none completes after it, is busy
from `n` on. -/
theorem runEvents_busy_of_no_completion {evs : Nat → Event} {s : State} {n : Nat} (hreset : ∀ m, evs m ≠ .reset)
    (hrun : ∀ m, ∃ u, runEvents evs s m = .next u)
    (hnone : ¬∃ m u, n < m ∧ runEvents evs s m = .next u ∧ u.status.busy = false ∧ u.status.done = true)
    (hstart : ∃ t, runEvents evs s n = .next t ∧ t.status.busy = true) (m : Nat) (hm : n ≤ m) :
    ∃ t, runEvents evs s m = .next t ∧ t.status.busy = true := by
  induction m, hm using Nat.le_induction with
  | base => exact hstart
  | succ m hm ih =>
    obtain ⟨t, ht, hb⟩ := ih
    obtain ⟨u, hu⟩ := hrun (m + 1)
    rcases react_of_busy hb (hreset m) ((runEvents_succ ht).symm.trans hu) with ⟨hidle, hdone⟩ | ⟨-, hbusy⟩
    · exact absurd ⟨m + 1, u, Nat.lt_succ_of_le hm, hu, hidle, hdone⟩ hnone
    · exact ⟨u, hu, hbusy⟩

end Sys2Proof.Machine

open Sys2Proof Sys2Proof.Machine

/-- Settles O33: if the operation never completed, the run would be busy for ever and the engine's step would stay away. -/
theorem weaklyFairRunsComplete : Obligations.WeaklyFairRunsComplete := by
  unfold Obligations.WeaklyFairRunsComplete
  intro evs s t n hfair hreset hrun ht hb
  by_contra hnone
  have hbusy := runEvents_busy_of_no_completion hreset hrun hnone ⟨t, ht, hb⟩
  refine hfair ⟨n, fun m hm => ⟨fun hengine => ?_, hbusy m hm⟩⟩
  obtain ⟨u, hu, hub⟩ := hbusy m hm
  obtain ⟨v, hv, hvb⟩ := hbusy (m + 1) (Nat.le_succ_of_le hm)
  rcases react_of_busy hub (hreset m) ((runEvents_succ hu).symm.trans hv) with ⟨hidle, -⟩ | ⟨hne, -⟩
  · exact absurd hvb (by simp [hidle])
  · exact hne hengine
end

section
namespace Sys2Proof.Machine

/-! ### The drop rule (R76) -/

/-- The drop table: a write or `START` while busy, or an operand that names no register or does not fit (R76). -/
theorem dropped_iff {x : Transaction} {s : State} :
    dropped x s = true ↔
      (s.status.busy = true ∧ (IsArgumentWrite x ∨ ∃ w, x = .start w)) ∨ ¬x.wellFormed s.cfg = true := by
  cases x with
  | writeNum | writeEntry => simp [dropped, IsArgumentWrite, Transaction.wellFormed]
  | writeStr => simp [dropped, IsArgumentWrite, Transaction.wellFormed, or_assoc, imp_iff_not_or, Nat.succ_le_iff]
  | start | readStatus | readOutLen | readOut | clear => simp [dropped, IsArgumentWrite, Transaction.wellFormed]

/-- A running operation drops every write and `START` (R76, R179). -/
theorem transact_write_of_busy {x : Transaction} {s : State} (hb : s.status.busy = true)
    (hx : IsArgumentWrite x ∨ ∃ w, x = .start w) : transact x s = dropTransaction s :=
  transact_dropped (dropped_iff.mpr (.inl ⟨hb, hx⟩))

theorem transact_of_not_wellFormed {x : Transaction} {s : State} (h : ¬x.wellFormed s.cfg = true) :
    transact x s = dropTransaction s :=
  transact_dropped (dropped_iff.mpr (.inr h))

/-- An idle LFS's `WE` of an entry register that exists writes it (R79). -/
theorem transact_writeEntry {s : State} {k : Byte} (hb : s.status.busy = false) (hk : k.toNat < s.cfg.lppSlots)
    (ew : EntryWord) (c0 c1 c2 : Word64) :
    transact (.writeEntry k ew c0 c1 c2) s =
      { s with ent := writeEntry s.ent k.toNat (entryOf ew c0 c1 c2) } := by
  have haccepted : dropped (.writeEntry k ew c0 c1 c2) s = false := by simp [dropped, hb, hk]
  exact transact_accepted haccepted

end Sys2Proof.Machine

open Sys2Proof Sys2Proof.Machine

/-- Settles O15, by the drop table; reads and `CLEAR` are not in it. -/
theorem droppedTransactionSetsOnlyDrop : Obligations.DroppedTransactionSetsOnlyDrop := by
  unfold Obligations.DroppedTransactionSetsOnlyDrop
  intro s
  have hnum (i : Byte) (v : Word64) (h : s.status.busy = true ∨ 4 ≤ i.toNat) :
      transact (.writeNum i v) s = dropTransaction s := by
    rcases h with hb | hi
    · exact transact_write_of_busy hb (.inl (.inl ⟨i, v, rfl⟩))
    · exact transact_of_not_wellFormed (by simp [Transaction.wellFormed, hi])
  refine ⟨fun i v => ?_, hnum, fun j b h => ?_, fun k ew c0 c1 c2 h => ?_, fun w hb => ?_,
    fun a => ⟨rfl, rfl, rfl⟩, rfl⟩
  · by_cases h : s.status.busy = true ∨ 4 ≤ i.toNat
    · exact .inl (hnum i v h)
    · rw [not_or, Bool.not_eq_true, Nat.not_le] at h
      exact .inr h
  · rcases h with hb | hj | hlen
    · exact transact_write_of_busy hb (.inl (.inr (.inl ⟨j, b, rfl⟩)))
    · exact transact_of_not_wellFormed (by simp [Transaction.wellFormed, Nat.not_lt.mpr hj])
    · exact transact_of_not_wellFormed (by simp [Transaction.wellFormed, hlen])
  · rcases h with hb | hk
    · exact transact_write_of_busy hb (.inl (.inr (.inr ⟨k, ew, c0, c1, c2, rfl⟩)))
    · exact transact_of_not_wellFormed (by simp [Transaction.wellFormed, hk])
  · exact transact_write_of_busy hb (.inr ⟨w, rfl⟩)

/-- Settles O16: each of the four indices is a register's, and an index from 4 on is dropped. -/
theorem writeNumWritesItsRegister : Obligations.WriteNumWritesItsRegister := by
  unfold Obligations.WriteNumWritesItsRegister
  intro s v hb
  refine ⟨fun i hi => ?_, transact_writeNum hb .n0 v, transact_writeNum hb .n1 v, transact_writeNum hb .n2 v,
    transact_writeNum hb .n3 v⟩
  exact transact_of_not_wellFormed (by simp [Transaction.wellFormed, hi])

/-- Settles O17: a string within `STR_CAP` reaches either register, and a longer one is dropped at every index. -/
theorem writeStrWritesItsRegister : Obligations.WriteStrWritesItsRegister := by
  unfold Obligations.WriteStrWritesItsRegister
  intro s b hb
  refine ⟨fun hfits => ⟨transact_writeStr hb .s0 hfits, transact_writeStr hb .s1 hfits⟩, fun hlong j => ?_⟩
  exact transact_of_not_wellFormed (by simp [Transaction.wellFormed, hlong])

/-- Settles O18, by what the entry file reads as after the write, and the fields of the descriptor word. -/
theorem writeEntryWritesItsRegister : Obligations.WriteEntryWritesItsRegister := by
  unfold Obligations.WriteEntryWritesItsRegister
  intro s k ew c0 c1 c2 hb
  refine ⟨fun hk => ?_, fun hk => ?_⟩
  · have hread := readEntry_writeEntry s.ent k.toNat (en := entryOf ew c0 c1 c2)
    exact ⟨_, transact_writeEntry hb hk ew c0 c1 c2, fun j hj => (hread j).trans (if_neg hj), _,
      (hread k.toNat).trans (if_pos rfl), entryCh_toNat ew, entrySk_toNat ew, rfl, rfl, rfl⟩
  · exact transact_of_not_wellFormed (by simp [Transaction.wellFormed, hk])

/-- Settles O19: `START` is accepted whatever its word, unless the LFS is busy. -/
theorem startBeginsTheOperation : Obligations.StartBeginsTheOperation := by
  unfold Obligations.StartBeginsTheOperation
  intro s w
  exact ⟨fun hidle => transact_start hidle w, fun hb => transact_write_of_busy hb (.inr ⟨w, rfl⟩)⟩

/-- Settles O20, by the places of the bits in the STATUS word. -/
theorem readStatusReturnsTheStatusWord : Obligations.ReadStatusReturnsTheStatusWord := by
  unfold Obligations.ReadStatusReturnsTheStatusWord
  exact fun s => ⟨readStatus s, transact_of_readReply rfl, statusWord_toNat s.status⟩

/-- Settles O21: `OUT_LEN` is 0 except after a success, and busy, error and reset are none. -/
theorem readOutLenReturnsTheFrameLength : Obligations.ReadOutLenReturnsTheFrameLength := by
  unfold Obligations.ReadOutLenReturnsTheFrameLength
  refine ⟨fun s => transact_of_readReply rfl, fun s hinv h => ?_⟩
  rcases h with hb | herr | hfresh
  · exact hinv.outLen_of_busy hb
  · exact hinv.outLenZero (by simp [herr])
  · obtain ⟨-, hdone⟩ := hinv.fresh.mpr hfresh
    exact hinv.outLenZero (by simp [hdone])

/-- Settles O23: `CLEAR` is not in the drop table, so it is accepted in every state. -/
theorem clearClearsOnlyDrop : Obligations.ClearClearsOnlyDrop := by
  unfold Obligations.ClearClearsOnlyDrop
  exact fun s => transact_accepted rfl
end

section
namespace Sys2Proof.Machine

/-! ### The written check of a command row (R105, R106) -/

theorem complete_eq_unwritten_iff {r : Encoded} {s : State} :
    complete r s = .fault .unwrittenArgument ↔ r = .error .unwritten := by
  cases r with
  | ok F =>
    by_cases hF : F.length ≤ s.cfg.outCap <;> simp [complete, hF]
  | error x =>
    cases x with
    | raise c i => simp [complete_raise]
    | unwritten => simp [complete_unwritten]

theorem not_fieldWritten_iff {num : NumFile} {str : StrFile} {fd : FieldKind} :
    ¬fieldWritten num str fd = true ↔
      (∃ r, fieldNum fd = some r ∧ readNum num r = none) ∨ ∃ r, fieldStr fd = some r ∧ readStr str r = none := by
  cases hnum : fieldNum fd <;> cases hstr : fieldStr fd <;> simp [fieldWritten, hnum, hstr, imp_iff_not_or]

theorem not_rowWritten_iff {num : NumFile} {str : StrFile} {row : CmdRow} :
    ¬rowWritten num str row = true ↔ ∃ fd ∈ row.fields,
      (∃ r, fieldNum fd = some r ∧ readNum num r = none) ∨ ∃ r, fieldStr fd = some r ∧ readStr str r = none := by
  simp only [rowWritten, List.all_eq_true, not_forall, exists_prop, not_fieldWritten_iff]

theorem ok_ne_unwritten (F : Bytes) : (.ok F : Encoded) ≠ .error .unwritten := by
  simp

@[simp] theorem raiseInvalid_ne_unwritten (f : Byte) : raiseInvalid f ≠ .error .unwritten := by
  simp [raiseInvalid]

theorem withNum_ne_unwritten {num : NumFile} {r : NReg} {k : Word64 → Encoded} (hr : (readNum num r).isSome = true)
    (hk : ∀ w, k w ≠ .error .unwritten) : withNum num r k ≠ .error .unwritten := by
  obtain ⟨w, hw⟩ := Option.isSome_iff_exists.mp hr
  rw [withNum, hw]
  exact hk w

theorem withStr_ne_unwritten {str : StrFile} {r : SReg} {k : Bytes → Encoded} (hr : (readStr str r).isSome = true)
    (hk : ∀ b, k b ≠ .error .unwritten) : withStr str r k ≠ .error .unwritten := by
  obtain ⟨b, hb⟩ := Option.isSome_iff_exists.mp hr
  rw [withStr, hb]
  exact hk b

/-- A field whose register is written emits bytes or raises an error (R96 to R103). -/
theorem encodeField_ne_unwritten {num : NumFile} {str : StrFile} {fd : FieldKind}
    (hw : fieldWritten num str fd = true) (c : Config) (f : Byte) : encodeField c num str fd f ≠ .error .unwritten := by
  obtain ⟨hnum, hstr⟩ := Bool.and_eq_true_iff.mp hw
  cases fd with
  | const b => exact ok_ne_unwritten b
  | uint | enum | flag =>
    refine withNum_ne_unwritten hnum fun w => ?_
    simp only [encodeUint, encodeEnum, encodeFlag]
    split_ifs <;> simp
  | sfix | ufix =>
    refine withNum_ne_unwritten hnum fun w => ?_
    simp only [encodeSfix, encodeUfix]
    split
    · exact raiseInvalid_ne_unwritten f
    · split_ifs <;> simp
  | text | padT => exact withStr_ne_unwritten hstr fun _ => ok_ne_unwritten _
  | padX | prefix6 | raw =>
    refine withStr_ne_unwritten hstr fun b => ?_
    simp only [encodePadX, encodePrefix6, encodeRaw]
    split_ifs <;> simp

theorem encodeFields_ne_unwritten {num : NumFile} {str : StrFile} {fields : List FieldKind}
    (hw : ∀ fd ∈ fields, fieldWritten num str fd = true) (c : Config) (f : Nat) :
    encodeFields c num str fields f ≠ .error .unwritten := by
  induction fields generalizing f with
  | nil => exact ok_ne_unwritten _
  | cons fd rest ih =>
    obtain ⟨hfd, hrest⟩ := List.forall_mem_cons.mp hw
    unfold encodeFields
    split
    · rename_i x hx
      exact hx ▸ encodeField_ne_unwritten hfd c _
    · split
      · rename_i x hx
        exact hx ▸ ih hrest (f + 1)
      · exact ok_ne_unwritten _

/-- The written check alone makes a command fault: no field of a written row does (R106). -/
theorem encodeCommand_eq_unwritten_iff {row : CmdRow} {c : Config} {num : NumFile} {str : StrFile} :
    encodeCommand row c num str = .error .unwritten ↔ ¬rowWritten num str row = true := by
  unfold encodeCommand
  split_ifs with hw
  · have hfields := encodeFields_ne_unwritten (List.all_eq_true.mp hw) c 0
    split
    · rename_i x hx
      simpa [hw, hx] using hfields
    · simp [hw]
  · simp [hw]

/-! ### What a command row reads (R118) -/

/-- Two argument files agree on every register that the field names. -/
structure SameArguments (num num' : NumFile) (str str' : StrFile) (fd : FieldKind) : Prop where
  num : ∀ r, fieldNum fd = some r → readNum num r = readNum num' r
  str : ∀ r, fieldStr fd = some r → readStr str r = readStr str' r

section
variable {num num' : NumFile} {str str' : StrFile}

theorem fieldWritten_congr {fd : FieldKind} (h : SameArguments num num' str str' fd) :
    fieldWritten num str fd = fieldWritten num' str' fd := by
  obtain ⟨hnum, hstr⟩ := h
  cases fd with
  | const b => rfl
  | uint | enum | flag | sfix | ufix => simp only [fieldWritten, fieldNum, fieldStr, hnum _ rfl]
  | text | padT | padX | prefix6 | raw => simp only [fieldWritten, fieldNum, fieldStr, hstr _ rfl]

theorem encodeField_congr {fd : FieldKind} (h : SameArguments num num' str str' fd) (c : Config) (f : Byte) :
    encodeField c num str fd f = encodeField c num' str' fd f := by
  obtain ⟨hnum, hstr⟩ := h
  cases fd with
  | const b => rfl
  | uint | enum | flag | sfix | ufix => simp only [encodeField, withNum, hnum _ rfl]
  | text | padT | padX | prefix6 | raw => simp only [encodeField, withStr, hstr _ rfl]

theorem encodeFields_congr {fields : List FieldKind} (h : ∀ fd ∈ fields, SameArguments num num' str str' fd)
    (c : Config) (f : Nat) : encodeFields c num str fields f = encodeFields c num' str' fields f := by
  induction fields generalizing f with
  | nil => rfl
  | cons fd rest ih =>
    obtain ⟨hfd, hrest⟩ := List.forall_mem_cons.mp h
    simp only [encodeFields, encodeField_congr hfd, ih hrest]

theorem rowWritten_congr {row : CmdRow} (h : ∀ fd ∈ row.fields, SameArguments num num' str str' fd) :
    rowWritten num str row = rowWritten num' str' row := by
  rw [Bool.eq_iff_iff, rowWritten, rowWritten, List.all_eq_true, List.all_eq_true]
  exact forall₂_congr fun fd hfd => by rw [fieldWritten_congr (h fd hfd)]

/-- A command frame depends on the registers that the row names and on no other. -/
theorem encodeCommand_congr {row : CmdRow} (h : ∀ fd ∈ row.fields, SameArguments num num' str str' fd) (c : Config) :
    encodeCommand row c num str = encodeCommand row c num' str' := by
  simp only [encodeCommand, rowWritten_congr h, encodeFields_congr h]

end

theorem SameArguments.of_writeNum {fd : FieldKind} {r : NReg} (h : fieldNum fd ≠ some r) (num : NumFile)
    (str : StrFile) (v : Word64) : SameArguments (writeNum num r v) num str str fd where
  num q hq := by
    have hne : q ≠ r := fun e => h (e ▸ hq)
    simp [readNum_writeNum, hne]
  str _ _ := rfl

theorem SameArguments.of_writeStr {fd : FieldKind} {r : SReg} (h : fieldStr fd ≠ some r) (num : NumFile)
    (str : StrFile) (b : Bytes) : SameArguments num num (writeStr str r b) str fd where
  num _ _ := rfl
  str q hq := by
    have hne : q ≠ r := fun e => h (e ▸ hq)
    simp [readStr_writeStr, hne]

/-! ### What a sensor row reads (R118) -/

/-- Temperature, Humidity, Analog input and Barometric pressure have one component (R149 to R151, R153). -/
theorem sensorRegistry_one_component {sk : Byte} (h : sk ∈ [0, 1, 2, 4]) :
    ∃ row cp, sensorRegistry[sk.toNat]? = some row ∧ row.comps = [cp] := by
  simp only [List.mem_cons, List.not_mem_nil, or_false] at h
  rcases h with rfl | rfl | rfl | rfl <;> exact ⟨_, _, rfl, rfl⟩

/-- A row of one component reads `C0` only. -/
theorem encodeSensor_one_component {row : SensorRow} {cp : Component} (h : row.comps = [cp]) (ch : Byte) (c : Config)
    (en : Entry) (e : Byte) (x y : Word64) :
    encodeSensor row ch c { en with c1 := x, c2 := y } e = encodeSensor row ch c en e := by
  simp only [encodeSensor, entryWords, h, encodeComponents]

/-! ### The length of an entry (R109, R147) -/

theorem encodeComponents_length_eq {c : Config} {e : Byte} {comps : List Component} {ws : List Word64} {b : Bytes}
    (hwords : comps.length ≤ ws.length) (h : encodeComponents c e comps ws = .ok b) :
    b.length = (comps.map Component.n).sum := by
  induction comps generalizing ws b with
  | nil => cases ws <;> (cases h; rfl)
  | cons cp rest ih =>
    cases ws with
    | nil => simp at hwords
    | cons w ws =>
      unfold encodeComponents at h
      split at h
      · cases h
      · rename_i b1 h1
        split at h
        · cases h
        · rename_i b2 h2
          cases h
          have hhead := encodeComponent_length h1
          have hrest := ih (Nat.le_of_succ_le_succ hwords) h2
          simp [hhead, hrest]

/-- What an entry's bytes are by a row of at most three components: the channel, the type and the components' widths. -/
theorem encodeSensor_ok {row : SensorRow} {ch : Byte} {c : Config} {en : Entry} {e : Byte} {F : Bytes}
    (hcomps : row.comps.length ≤ 3) (h : encodeSensor row ch c en e = .ok F) :
    F[0]? = some ch ∧ F[1]? = some row.type ∧ F.length = 2 + (row.comps.map Component.n).sum := by
  unfold encodeSensor at h
  split at h
  · cases h
  · rename_i bs hbs
    cases h
    have hlen := encodeComponents_length_eq hcomps hbs
    exact ⟨rfl, rfl, by simp only [List.length_cons, hlen]; omega⟩

theorem entryBytes_ok {c : Config} {en : Entry} {e : Byte} {F : Bytes} (h : entryBytes c en e = .ok F) :
    ∃ row, sensorRegistry[en.sk.toNat]? = some row ∧ encodeSensor row en.ch c en e = .ok F := by
  unfold entryBytes at h
  split at h
  · cases h
  · rename_i row hrow
    exact ⟨row, hrow, h⟩

/-- Every sensor row reads at most the three component words of an entry. -/
theorem sensorRegistry_comps_length {row : SensorRow} (h : row ∈ sensorRegistry) : row.comps.length ≤ 3 := by
  revert row
  decide

/-- The type bytes and the entry lengths of the sensor rows by kind identifier (R109, R149 to R154). -/
theorem sensorRegistry_type_length {sk : Nat} {row : SensorRow} (h : sensorRegistry[sk]? = some row) :
    (sk, row.type, 2 + (row.comps.map Component.n).sum) ∈
      [(0, (0x67 : Byte), 4), (1, 0x68, 3), (2, 0x02, 4), (3, 0x88, 11), (4, 0x73, 4), (5, 0x71, 8)] := by
  obtain ⟨hsk, -⟩ := List.getElem?_eq_some_iff.mp h
  change sk < 6 at hsk
  interval_cases sk <;> (cases h; decide)

/-! ### Zero and subnormal inputs (R117) -/

/-- A value below one half in magnitude converts to 0, under either conversion and tie rule. -/
theorem convert_eq_zero {p : FiniteF64} (h : |p.value| < 1 / 2) (c : Config) (m : Conversion) : convert c m p = 0 := by
  have hlt : |(convert c m p : ℚ)| < 1 := by
    cases m with
    | trunc => exact (trunc_bounds p).1.trans_lt (by linarith)
    | rnd =>
      have hnear := rnd_near c.pressureTie p
      have htri := abs_sub_abs_le_abs_sub ((rnd c.pressureTie p : Int) : ℚ) p.value
      exact lt_of_le_of_lt (sub_le_iff_le_add.mp (htri.trans hnear)) (by linarith)
  exact Int.abs_lt_one_iff.mp (by exact_mod_cast hlt)

/-- A correctly rounded word is no farther from its exact value than 0 is, so a small exact value gives a small one. -/
theorem CorrectlyRounded.abs_lt_half {neg : Bool} {r : ℚ} {w : Word64} (h : CorrectlyRounded neg r w) (hr : |r| < 1 / 4) :
    ∃ p, binary64 w = .finite p ∧ |p.value| < 1 / 2 := by
  have hthreshold : 1 / 4 < overflowThreshold := by
    have hunit : (1 : ℚ) ≤ 2 ^ (971 : Int) := one_le_zpow₀ one_le_two (by decide)
    rw [overflowThreshold_eq]
    generalize (2 : ℚ) ^ (971 : Int) = unit at hunit ⊢
    linarith
  obtain ⟨p, hp, -, hnearest⟩ := h.finite (hr.trans hthreshold)
  have hzero := (hnearest 0 _ (binary64_subnormal (by decide))).1
  rw [subnormal_value] at hzero
  have hle : |p.value - r| ≤ |r| := by simpa [f64Frac_eq] using hzero
  have htri := abs_sub_abs_le_abs_sub p.value r
  exact ⟨p, hp, by linarith⟩

theorem abs_value_lt_of_subnormal {w : Word64} {x : FiniteF64} (he : f64Exp w = 0) (hx : binary64 w = .finite x) :
    |x.value| < 2 ^ (-1022 : Int) := by
  rw [binary64_subnormal he] at hx
  cases hx
  have hfrac : (f64Frac w : ℚ) < 2 ^ 52 := by
    rw [f64Frac_eq]
    exact_mod_cast Nat.mod_lt _ (by decide)
  rw [subnormal_value, abs_signFactor_mul, abs_of_nonneg (by positivity)]
  calc (f64Frac w : ℚ) * 2 ^ (-1074 : Int) < 2 ^ 52 * 2 ^ (-1074 : Int) := by gcongr
    _ = 2 ^ (-1022 : Int) := by rw [← zpow_natCast, ← zpow_add₀ two_ne_zero]; rfl

/-- The exact product of a zero or subnormal with a scale of at most a million is below one quarter. -/
theorem abs_product_lt_of_subnormal {w : Word64} {x : FiniteF64} {s : Nat} (he : f64Exp w = 0)
    (hx : binary64 w = .finite x) (hs : s ≤ 1000000) : |x.value * s| < 1 / 4 := by
  have hvalue := abs_value_lt_of_subnormal he hx
  have hscale : (s : ℚ) ≤ 1000000 := by exact_mod_cast hs
  rw [abs_mul, Nat.abs_cast]
  calc |x.value| * s ≤ 2 ^ (-1022 : Int) * 1000000 := by gcongr
    _ ≤ 2 ^ (-22 : Int) * 1000000 := by gcongr <;> norm_num
    _ < 1 / 4 := by norm_num

theorem scaleMul_rne64 {c : Config} (h : c.scaleMul = .rne64) (w : Word64) (x : FiniteF64) (s : Nat) :
    scaleMul c w x s = rneScale x s := by
  simp only [scaleMul, h]

end Sys2Proof.Machine

open Sys2Proof Sys2Proof.Machine

/-- Settles O31: the written check is the one place where a command faults. -/
theorem unwrittenRegisterComesBeforeFieldErrors : Obligations.UnwrittenRegisterComesBeforeFieldErrors := by
  unfold Obligations.UnwrittenRegisterComesBeforeFieldErrors
  intro row s _
  rw [runCommand, complete_eq_unwritten_iff, encodeCommand_eq_unwritten_iff, not_rowWritten_iff]

/-- Settles O32: the write leaves every register that the row names, and a row of one component reads `C0` only. -/
theorem unnamedRegistersAreNeverRead : Obligations.UnnamedRegistersAreNeverRead := by
  unfold Obligations.UnnamedRegistersAreNeverRead
  refine ⟨fun row c num str r v h => ?_, fun row c num str r b h => ?_, fun c en e x y hsk => ?_⟩
  · exact encodeCommand_congr (fun fd hfd => .of_writeNum (h fd hfd) num str v) c
  · exact encodeCommand_congr (fun fd hfd => .of_writeStr (h fd hfd) num str b) c
  · obtain ⟨row, cp, hrow, hcomps⟩ := sensorRegistry_one_component hsk
    simp only [entryBytes, hrow, encodeSensor_one_component hcomps]

/-- Settles O41: the product is correctly rounded, so it is as small as the exact product of a zero or subnormal. -/
theorem zeroAndSubnormalInputsGiveZero : Obligations.ZeroAndSubnormalInputsGiveZero := by
  unfold Obligations.ZeroAndSubnormalInputsGiveZero
  intro c w s m hmul hexp hs
  have he : f64Exp w = 0 := (f64Exp_eq w).trans hexp
  have hmax : s ≤ 1000000 := by
    revert s
    decide
  have hx := binary64_subnormal he
  obtain ⟨p, hp, hsmall⟩ := (rneScale_correctlyRounded _ s).abs_lt_half (abs_product_lt_of_subnormal he hx hmax)
  exact ⟨_, p, hx, by rw [scaleMul_rne64 hmul, hp], (convert_eq_zero hsmall c m).symm⟩

/-- Settles O59, by the sensor row of the entry's kind. -/
theorem entryBytesHaveChannelTypeAndFixedLength : Obligations.EntryBytesHaveChannelTypeAndFixedLength := by
  unfold Obligations.EntryBytesHaveChannelTypeAndFixedLength
  intro c en e F hF
  obtain ⟨row, hrow, hbytes⟩ := entryBytes_ok hF
  have hcomps := sensorRegistry_comps_length (List.mem_of_getElem? hrow)
  exact ⟨row.type, _, sensorRegistry_type_length hrow, encodeSensor_ok hcomps hbytes⟩
end

section
namespace Sys2Proof.Machine

/-! ### What each field of a command row emits (R96 to R103) -/

section
variable {c : Config} {num : NumFile} {str : StrFile} {f : Byte}

/-- The written check and the encoder agree on what an unwritten register is (R105, R106). -/
theorem fieldWritten_of_encodeField {fd : FieldKind} (h : encodeField c num str fd f ≠ .error .unwritten) :
    fieldWritten num str fd = true := by
  by_contra hw
  rcases not_fieldWritten_iff.mp hw with ⟨r, hfd, hr⟩ | ⟨r, hfd, hr⟩
  · cases fd <;> cases hfd <;> exact h (by simp [encodeField, withNum, hr])
  · cases fd <;> cases hfd <;> exact h (by simp [encodeField, withStr, hr])

section
variable (r : NReg) {w : Word64} (hr : readNum num r = some w)
include hr

theorem encodeField_uint_ok {n : Nat} (hw : w.toNat < 2 ^ (8 * n)) :
    encodeField c num str (.uint n r) f = .ok (le w.toNat n) := by
  simp only [encodeField, withNum, hr, encodeUint_eq.1 hw]

theorem encodeField_uint_invalid {n : Nat} (hw : 2 ^ (8 * n) ≤ w.toNat) :
    encodeField c num str (.uint n r) f = raiseInvalid f := by
  simp only [encodeField, withNum, hr, encodeUint_eq.2 hw]

theorem encodeField_enum_ok {max : Nat} (hw : w.toNat ≤ max) :
    encodeField c num str (.enum r max) f = .ok [BitVec.ofNat 8 w.toNat] := by
  simp only [encodeField, withNum, hr, encodeEnum, Nat.not_lt.mpr hw, if_false]

theorem encodeField_enum_invalid {max : Nat} (hw : max < w.toNat) :
    encodeField c num str (.enum r max) f = raiseInvalid f := by
  simp only [encodeField, withNum, hr, encodeEnum, hw, if_true]

theorem encodeField_flag_clear {b : Byte} (hw : w = 0) : encodeField c num str (.flag r b) f = .ok [] := by
  simp [encodeField, withNum, hr, encodeFlag, hw]

theorem encodeField_flag_set {b : Byte} (hw : w = 1) : encodeField c num str (.flag r b) f = .ok [b] := by
  simp [encodeField, withNum, hr, encodeFlag, hw]

theorem encodeField_flag_invalid {b : Byte} (hw : 2 ≤ w.toNat) :
    encodeField c num str (.flag r b) f = raiseInvalid f := by
  have h0 : w.toNat ≠ 0 := by omega
  have h1 : w.toNat ≠ 1 := by omega
  simp only [encodeField, withNum, hr, encodeFlag, h0, h1, if_false]

theorem encodeField_sfix_ok {n scale : Nat} {lo hi q : Int} (hq : InsideRange c w scale .trunc lo hi q)
    (hlo : lo = -((2 ^ (8 * n - 1) : Nat) : Int)) (hhi : hi = ((2 ^ (8 * n - 1) : Nat) : Int) - 1) :
    encodeField c num str (.sfix n r scale) f = .ok (le q n) := by
  simp only [encodeField, withNum, hr, encodeSfix_inside hq hlo hhi]

theorem encodeField_sfix_invalid {n scale : Nat} {lo hi : Int} (hq : OutsideRange c w scale .trunc lo hi)
    (hlo : lo = -((2 ^ (8 * n - 1) : Nat) : Int)) (hhi : hi = ((2 ^ (8 * n - 1) : Nat) : Int) - 1) :
    encodeField c num str (.sfix n r scale) f = raiseInvalid f := by
  simp only [encodeField, withNum, hr, encodeSfix_outside hq hlo hhi]

theorem encodeField_ufix_ok {n scale : Nat} {hi q : Int} (hq : InsideRange c w scale .trunc 0 hi q)
    (hhi : hi = ((2 ^ (8 * n) : Nat) : Int) - 1) : encodeField c num str (.ufix n r scale) f = .ok (le q n) := by
  simp only [encodeField, withNum, hr, encodeUfix_inside hq hhi]

theorem encodeField_ufix_invalid {n scale : Nat} {hi : Int} (hq : OutsideRange c w scale .trunc 0 hi)
    (hhi : hi = ((2 ^ (8 * n) : Nat) : Int) - 1) : encodeField c num str (.ufix n r scale) f = raiseInvalid f := by
  simp only [encodeField, withNum, hr, encodeUfix_outside hq hhi]

end

section
variable (r : SReg) {b : Bytes} (hr : readStr str r = some b)
include hr

theorem encodeField_text : encodeField c num str (.text r) f = .ok b := by
  simp only [encodeField, withStr, hr]

theorem encodeField_padT {width : Nat} :
    encodeField c num str (.padT r width) f = .ok (padTo width (b.take width)) := by
  simp only [encodeField, withStr, hr, encodePadT]

end

end

/-! ### The fields in frame order (R105, R107, R160) -/

section
variable {c : Config} {num : NumFile} {str : StrFile} {fd : FieldKind} {rest : List FieldKind} {f : Nat} {b bs : Bytes}
  {x : Stop}

theorem encodeFields_cons_ok (hfd : encodeField c num str fd (BitVec.ofNat 8 f) = .ok b)
    (hrest : encodeFields c num str rest (f + 1) = .ok bs) :
    encodeFields c num str (fd :: rest) f = .ok (b ++ bs) := by
  simp only [encodeFields, hfd, hrest]

theorem encodeFields_cons_error (hfd : encodeField c num str fd (BitVec.ofNat 8 f) = .error x) :
    encodeFields c num str (fd :: rest) f = .error x := by
  simp only [encodeFields, hfd]

/-- A field's error is the row's error when the fields before it encode. -/
theorem encodeFields_cons_later_error (hfd : encodeField c num str fd (BitVec.ofNat 8 f) = .ok b)
    (hrest : encodeFields c num str rest (f + 1) = .error x) :
    encodeFields c num str (fd :: rest) f = .error x := by
  simp only [encodeFields, hfd, hrest]

theorem fieldsWritten_of_encodeFields {fields : List FieldKind} (h : encodeFields c num str fields f = .ok bs) :
    ∀ fd ∈ fields, fieldWritten num str fd = true := by
  induction fields generalizing f bs with
  | nil => simp
  | cons fd rest ih =>
    unfold encodeFields at h
    split at h
    · cases h
    · rename_i b1 hfd
      split at h
      · cases h
      · rename_i b2 hrest
        exact List.forall_mem_cons.mpr ⟨fieldWritten_of_encodeField (hfd ▸ ok_ne_unwritten b1), ih hrest⟩

end

/-! ### How an instruction that runs a command row ends (R85 to R87, R164) -/

section
variable {i : Instr} (row : CmdRow) {s : State} (hexec : exec i s = runCommand row s)
include hexec

theorem completes_of_encodeFields {F bs : Bytes} (hok : s.cfg.Ok)
    (hfields : encodeFields s.cfg s.num s.str row.fields 0 = .ok bs) (hF : F = rowHead row ++ bs)
    (hlen : F.length ≤ s.cfg.outCap) : Completes i s F := by
  unfold Completes
  rw [hexec]
  exact runCommand_completedWith hok (List.all_eq_true.mpr (fieldsWritten_of_encodeFields hfields)) hfields
    (hF ▸ hlen) hF

/-- A frame of at most 65 bytes fits the output buffer of every configuration (R6, R8). -/
theorem completes_of_short_frame {F bs : Bytes} (hok : s.cfg.Ok)
    (hfields : encodeFields s.cfg s.num s.str row.fields 0 = .ok bs) (hF : F = rowHead row ++ bs)
    (hlen : F.length ≤ 65) : Completes i s F :=
  completes_of_encodeFields row hexec hok hfields hF (hlen.trans (outCap_room hok).1)

theorem fails_of_encodeFields {f : Byte} (hw : rowWritten s.num s.str row = true)
    (hfields : encodeFields s.cfg s.num s.str row.fields 0 = raiseInvalid f) : Fails i s 2 f := by
  unfold Fails
  rw [hexec]
  exact runCommand_failedWith hw hfields rfl

/-- The only field of a row fails: its register has been read, so it is written. -/
theorem fails_of_only_field {fd : FieldKind} (honly : row.fields = [fd])
    (hfd : encodeField s.cfg s.num s.str fd 0 = raiseInvalid 0) : Fails i s 2 0 := by
  have hfield : fieldWritten s.num s.str fd = true := fieldWritten_of_encodeField (hfd ▸ raiseInvalid_ne_unwritten 0)
  exact fails_of_encodeFields row hexec (by simp [rowWritten, honly, hfield]) (honly ▸ encodeFields_cons_error hfd)

theorem faults_of_unwrittenNum (r : NReg) (hnames : ∃ fd ∈ row.fields, fieldNum fd = some r)
    (hr : readNum s.num r = none) : Faults i s := by
  obtain ⟨fd, hmem, hfd⟩ := hnames
  exact hexec.trans (runCommand_faults (not_rowWritten_iff.mpr ⟨fd, hmem, .inl ⟨r, hfd, hr⟩⟩))

theorem faults_of_unwrittenStr (r : SReg) (hnames : ∃ fd ∈ row.fields, fieldStr fd = some r)
    (hr : readStr s.str r = none) : Faults i s := by
  obtain ⟨fd, hmem, hfd⟩ := hnames
  exact hexec.trans (runCommand_faults (not_rowWritten_iff.mpr ⟨fd, hmem, .inr ⟨r, hfd, hr⟩⟩))

end

/-! ### The commands of two and four numbers (R125, R127) -/

theorem rowWritten_setCoords {num : NumFile} {x y : Word64} (hx : num.n0 = some x) (hy : num.n1 = some y)
    (str : StrFile) : rowWritten num str setCoordsRow = true := by
  simp [rowWritten, setCoordsRow, fieldWritten, fieldNum, fieldStr, readNum, hx, hy]

theorem rowWritten_setRadio {num : NumFile} {x y sf cr : Word64} (hx : num.n0 = some x) (hy : num.n1 = some y)
    (hsf : num.n2 = some sf) (hcr : num.n3 = some cr) (str : StrFile) : rowWritten num str setRadioRow = true := by
  simp [rowWritten, setRadioRow, fieldWritten, fieldNum, fieldStr, readNum, hx, hy, hsf, hcr]

end Sys2Proof.Machine

open Sys2Proof Sys2Proof.Machine

/-- Settles O43: no row names a register, and every frame has at most 7 bytes. -/
theorem commandsWithoutArgumentsComplete : Obligations.CommandsWithoutArgumentsComplete := by
  unfold Obligations.CommandsWithoutArgumentsComplete
  refine ⟨rfl, rfl, rfl, rfl, rfl, rfl, rfl, rfl, rfl, rfl, fun s hok => ⟨?_, ?_, ?_, ?_, ?_, ?_, ?_, ?_, ?_, ?_⟩⟩
  · exact completes_of_short_frame deviceQueryRow rfl hok rfl rfl (by decide)
  · exact completes_of_short_frame getBatteryRow rfl hok rfl rfl (by decide)
  · exact completes_of_short_frame getTimeRow rfl hok rfl rfl (by decide)
  · exact completes_of_short_frame rebootRow rfl hok rfl rfl (by decide)
  · exact completes_of_short_frame getContactsRow rfl hok rfl rfl (by decide)
  · exact completes_of_short_frame getMessageRow rfl hok rfl rfl (by decide)
  · exact completes_of_short_frame getSelfTelemetryRow rfl hok rfl rfl (by decide)
  · exact completes_of_short_frame exportPrivateKeyRow rfl hok rfl rfl (by decide)
  · exact completes_of_short_frame signStartRow rfl hok rfl rfl (by decide)
  · exact completes_of_short_frame signFinishRow rfl hok rfl rfl (by decide)

/-- Settles O44: `PADT` and `TEXT` emit bytes for every string; a name within `STR_CAP` leaves room for the opcode. -/
theorem appStartAndSetNameEmitTheirText : Obligations.AppStartAndSetNameEmitTheirText := by
  unfold Obligations.AppStartAndSetNameEmitTheirText
  refine ⟨rfl, rfl, fun s hok => ⟨fun b hb => ?_, fun hnone => ?_⟩⟩
  · have hlen : ([0x01, 0x03, 0x20, 0x20, 0x20, 0x20, 0x20, 0x20] ++ b.take 5 ++ zeros (5 - (b.take 5).length)).length
        = 13 := by simp
    refine ⟨?_, hlen, fun hcap => ?_⟩
    · exact completes_of_short_frame appStartRow rfl hok
        (encodeFields_cons_ok rfl (encodeFields_cons_ok (encodeField_padT .s0 hb) rfl))
        (by simp [rowHead, appStartRow, padTo]) (by omega)
    · have hroom := (outCap_room hok).2.1
      exact completes_of_encodeFields setNameRow rfl hok (encodeFields_cons_ok (encodeField_text .s0 hb) rfl)
        (by simp [rowHead, setNameRow]) (by simp; omega)
  · exact ⟨faults_of_unwrittenStr appStartRow rfl .s0 (by decide) hnone,
      faults_of_unwrittenStr setNameRow rfl .s0 (by decide) hnone⟩

/-- Settles O45, by the range of `UINT(4, N0)`. -/
theorem setTimeAndSetTxPowerEmitFourBytes : Obligations.SetTimeAndSetTxPowerEmitFourBytes := by
  unfold Obligations.SetTimeAndSetTxPowerEmitFourBytes
  refine ⟨rfl, rfl, fun s hok => ⟨fun v hv hfits => ?_, fun v hv hwide => ?_, fun hnone => ?_⟩⟩
  · have hfield := encodeField_uint_ok (c := s.cfg) (str := s.str) (f := 0) .n0 hv (n := 4) hfits
    exact ⟨completes_of_short_frame setTimeRow rfl hok (encodeFields_cons_ok hfield rfl)
        (by simp [rowHead, setTimeRow]) (by simp),
      completes_of_short_frame setTxPowerRow rfl hok (encodeFields_cons_ok hfield rfl)
        (by simp [rowHead, setTxPowerRow]) (by simp)⟩
  · have hfield := encodeField_uint_invalid (c := s.cfg) (str := s.str) (f := 0) .n0 hv (n := 4) hwide
    exact ⟨fails_of_only_field setTimeRow rfl rfl hfield, fails_of_only_field setTxPowerRow rfl rfl hfield⟩
  · exact ⟨faults_of_unwrittenNum setTimeRow rfl .n0 (by decide) hnone,
      faults_of_unwrittenNum setTxPowerRow rfl .n0 (by decide) hnone⟩

/-- Settles O46, by the two `SFIX` fields in frame order. -/
theorem setCoordsEmitsScaledCoordinates : Obligations.SetCoordsEmitsScaledCoordinates := by
  unfold Obligations.SetCoordsEmitsScaledCoordinates
  refine ⟨rfl, fun s hok => ⟨fun x y q0 q1 hx hy h0 h1 => ?_, fun x y hx hy h0 => ?_, fun x y q0 hx hy h0 h1 => ?_,
    fun hnone => ?_⟩⟩
  · exact completes_of_short_frame setCoordsRow rfl hok
      (encodeFields_cons_ok (encodeField_sfix_ok .n0 hx h0 rfl rfl)
        (encodeFields_cons_ok (encodeField_sfix_ok .n1 hy h1 rfl rfl) (encodeFields_cons_ok rfl rfl)))
      (by simp [rowHead, setCoordsRow]) (by simp)
  · exact fails_of_encodeFields setCoordsRow rfl (rowWritten_setCoords hx hy s.str)
      (encodeFields_cons_error (encodeField_sfix_invalid .n0 hx h0 rfl rfl))
  · exact fails_of_encodeFields setCoordsRow rfl (rowWritten_setCoords hx hy s.str)
      (encodeFields_cons_later_error (encodeField_sfix_ok .n0 hx h0 rfl rfl)
        (encodeFields_cons_error (encodeField_sfix_invalid .n1 hy h1 rfl rfl)))
  · rcases hnone with hx | hy
    · exact faults_of_unwrittenNum setCoordsRow rfl .n0 (by decide) hx
    · exact faults_of_unwrittenNum setCoordsRow rfl .n1 (by decide) hy

/-- Settles O47, by the four fields in frame order. -/
theorem setRadioEmitsItsFourFields : Obligations.SetRadioEmitsItsFourFields := by
  unfold Obligations.SetRadioEmitsItsFourFields
  refine ⟨rfl, fun s hok => ⟨fun x y sf cr hx hy hsf hcr => ?_, fun hnone => ?_⟩⟩
  · have hw := rowWritten_setRadio hx hy hsf hcr s.str
    refine ⟨fun q0 q1 h0 h1 => ?_, fun h0 => ?_, fun q0 h0 h1 => ?_⟩
    · have hfreq (f : Byte) := encodeField_ufix_ok (num := s.num) (str := s.str) (f := f) .n0 hx (n := 4) h0 rfl
      have hband (f : Byte) := encodeField_ufix_ok (num := s.num) (str := s.str) (f := f) .n1 hy (n := 4) h1 rfl
      refine ⟨fun h2 h3 => ?_, fun h2 => ?_, fun h2 h3 => ?_⟩
      · exact completes_of_short_frame setRadioRow rfl hok
          (encodeFields_cons_ok (hfreq _) (encodeFields_cons_ok (hband _)
            (encodeFields_cons_ok (encodeField_uint_ok .n2 hsf h2)
              (encodeFields_cons_ok (encodeField_uint_ok .n3 hcr h3) rfl))))
          (by simp [rowHead, setRadioRow, le_one]) (by simp)
      · exact fails_of_encodeFields setRadioRow rfl hw
          (encodeFields_cons_later_error (hfreq _) (encodeFields_cons_later_error (hband _)
            (encodeFields_cons_error (encodeField_uint_invalid .n2 hsf h2))))
      · exact fails_of_encodeFields setRadioRow rfl hw
          (encodeFields_cons_later_error (hfreq _) (encodeFields_cons_later_error (hband _)
            (encodeFields_cons_later_error (encodeField_uint_ok .n2 hsf h2)
              (encodeFields_cons_error (encodeField_uint_invalid .n3 hcr h3)))))
    · exact fails_of_encodeFields setRadioRow rfl hw
        (encodeFields_cons_error (encodeField_ufix_invalid .n0 hx h0 rfl))
    · exact fails_of_encodeFields setRadioRow rfl hw
        (encodeFields_cons_later_error (encodeField_ufix_ok .n0 hx h0 rfl)
          (encodeFields_cons_error (encodeField_ufix_invalid .n1 hy h1 rfl)))
  · rcases hnone with hx | hy | hsf | hcr
    · exact faults_of_unwrittenNum setRadioRow rfl .n0 (by decide) hx
    · exact faults_of_unwrittenNum setRadioRow rfl .n1 (by decide) hy
    · exact faults_of_unwrittenNum setRadioRow rfl .n2 (by decide) hsf
    · exact faults_of_unwrittenNum setRadioRow rfl .n3 (by decide) hcr

/-- Settles O52, by the ranges of `FLAG(N0, 01)`, `UINT(1, N0)` and `ENUM(N0, 2)`. -/
theorem oneByteCommandsEmitTheirArgument : Obligations.OneByteCommandsEmitTheirArgument := by
  unfold Obligations.OneByteCommandsEmitTheirArgument
  refine ⟨rfl, rfl, rfl, fun s hok => ⟨fun v hv => ⟨fun hclear => ?_, fun hset => ?_, fun hflag => ?_,
    fun hindex => ?_, fun hindex => ?_, fun hselector => ?_, fun hselector => ?_⟩, fun hnone => ?_⟩⟩
  · exact completes_of_short_frame sendAdvertisementRow rfl hok
      (encodeFields_cons_ok (encodeField_flag_clear .n0 hv hclear) rfl) rfl (by decide)
  · exact completes_of_short_frame sendAdvertisementRow rfl hok
      (encodeFields_cons_ok (encodeField_flag_set .n0 hv hset) rfl) rfl (by decide)
  · exact fails_of_only_field sendAdvertisementRow rfl rfl (encodeField_flag_invalid .n0 hv hflag)
  · exact completes_of_short_frame getChannelRow rfl hok
      (encodeFields_cons_ok (encodeField_uint_ok .n0 hv hindex) rfl)
      (by simp [rowHead, getChannelRow, le_one]) (by simp)
  · exact fails_of_only_field getChannelRow rfl rfl (encodeField_uint_invalid .n0 hv hindex)
  · exact completes_of_short_frame getStatsRow rfl hok
      (encodeFields_cons_ok (encodeField_enum_ok .n0 hv hselector) rfl) rfl (by simp)
  · exact fails_of_only_field getStatsRow rfl rfl (encodeField_enum_invalid .n0 hv hselector)
  · exact ⟨faults_of_unwrittenNum sendAdvertisementRow rfl .n0 (by decide) hnone,
      faults_of_unwrittenNum getChannelRow rfl .n0 (by decide) hnone,
      faults_of_unwrittenNum getStatsRow rfl .n0 (by decide) hnone⟩
end

section
namespace Sys2Proof.Machine

/-! ### The destination fields (R101, R102, R113) -/

section
variable {c : Config} {num : NumFile} {str : StrFile} {f : Byte} (r : SReg) {b : Bytes} (hr : readStr str r = some b)
include hr

theorem encodeField_prefix6_ok (hmin : 6 ≤ b.length) (hmax : b.length ≤ 32) :
    encodeField c num str (.prefix6 r) f = .ok (b.take 6) := by
  simp only [encodeField, withStr, hr, encodePrefix6, Nat.not_lt.mpr hmin, Nat.not_lt.mpr hmax, or_self, if_false]

theorem encodeField_prefix6_invalid (hb : b.length < 6 ∨ 32 < b.length) :
    encodeField c num str (.prefix6 r) f = raiseInvalid f := by
  simp only [encodeField, withStr, hr, encodePrefix6, hb, if_true]

theorem encodeField_padX_ok {width : Nat} (hb : b.length ≤ width) :
    encodeField c num str (.padX r width) f = .ok (padTo width b) := by
  simp only [encodeField, withStr, hr, encodePadX, Nat.not_lt.mpr hb, if_false]

theorem encodeField_padX_invalid {width : Nat} (hb : width < b.length) :
    encodeField c num str (.padX r width) f = raiseInvalid f := by
  simp only [encodeField, withStr, hr, encodePadX, hb, if_true]

end

/-! ### How the messaging rows end (R8, R132 to R137, R145) -/

section
variable {i : Instr} (row : CmdRow) {s : State} (hexec : exec i s = runCommand row s)
include hexec

/-- A frame of at most 33 bytes and one string fits the output buffer of every configuration (R8). -/
theorem completes_of_text_frame {F bs : Bytes} (hok : s.cfg.Ok)
    (hfields : encodeFields s.cfg s.num s.str row.fields 0 = .ok bs) (hF : F = rowHead row ++ bs)
    (hlen : F.length ≤ 33 + s.cfg.strCap) : Completes i s F :=
  completes_of_encodeFields row hexec hok hfields hF (hlen.trans (outCap_room hok).2.1)

/-- A command whose only field is `PADX(S0, 32)` emits its opcode bytes and the padded destination (R136, R137, R145). -/
theorem completes_of_only_destination {dst : Bytes} (hok : s.cfg.Ok) (honly : row.fields = [.padX .s0 32])
    (hdst : s.str.s0 = some dst) (hmax : dst.length ≤ 32) : Completes i s (rowHead row ++ padTo 32 dst) := by
  have hfields : encodeFields s.cfg s.num s.str row.fields 0 = .ok (padTo 32 dst ++ []) :=
    honly ▸ encodeFields_cons_ok (encodeField_padX_ok .s0 hdst hmax) rfl
  have hhead : (rowHead row).length ≤ 2 := by unfold rowHead; split <;> simp
  exact completes_of_short_frame row hexec hok hfields (by simp) (by simp [padTo]; omega)

end

section
variable {num : NumFile} {str : StrFile} {dst txt : Bytes}

theorem rowWritten_sendMessage {att ts : Word64} (hatt : num.n0 = some att) (hts : num.n1 = some ts)
    (hdst : str.s0 = some dst) (htxt : str.s1 = some txt) : rowWritten num str sendMessageRow = true := by
  simp [rowWritten, sendMessageRow, fieldWritten, fieldNum, fieldStr, readNum, readStr, hatt, hts, hdst, htxt]

theorem rowWritten_sendCommand {ts : Word64} (hts : num.n0 = some ts) (hdst : str.s0 = some dst)
    (htxt : str.s1 = some txt) : rowWritten num str sendCommandRow = true := by
  simp [rowWritten, sendCommandRow, fieldWritten, fieldNum, fieldStr, readNum, readStr, hts, hdst, htxt]

theorem rowWritten_sendChannelMessage {ch ts : Word64} (hch : num.n0 = some ch) (hts : num.n1 = some ts)
    (htxt : str.s0 = some txt) : rowWritten num str sendChannelMessageRow = true := by
  simp [rowWritten, sendChannelMessageRow, fieldWritten, fieldNum, fieldStr, readNum, readStr, hch, hts, htxt]

theorem rowWritten_sendLogin (hdst : str.s0 = some dst) (hpw : str.s1 = some txt) (num : NumFile) :
    rowWritten num str sendLoginRow = true := by
  simp [rowWritten, sendLoginRow, fieldWritten, fieldNum, fieldStr, readStr, hdst, hpw]

end

end Sys2Proof.Machine

open Sys2Proof Sys2Proof.Machine

/-- Settles O48, by the four fields in frame order. -/
theorem sendMessageEmitsItsFields : Obligations.SendMessageEmitsItsFields := by
  unfold Obligations.SendMessageEmitsItsFields
  refine ⟨rfl, fun s hok => ⟨fun att ts dst msg hatt hts hdst hmsg => ?_, fun hnone => ?_⟩⟩
  · have hw := rowWritten_sendMessage hatt hts hdst hmsg
    refine ⟨fun h0 h1 hmin hmax hcap => ?_, fun h0 => ?_, fun h0 h1 => ?_, fun h0 h1 h2 => ?_⟩
    · exact completes_of_text_frame sendMessageRow rfl hok
        (encodeFields_cons_ok (encodeField_uint_ok .n0 hatt h0)
          (encodeFields_cons_ok (encodeField_uint_ok .n1 hts h1)
            (encodeFields_cons_ok (encodeField_prefix6_ok .s0 hdst hmin hmax)
              (encodeFields_cons_ok (encodeField_text .s1 hmsg) rfl))))
        (by simp [rowHead, sendMessageRow, le_one]) (by simp; omega)
    · exact fails_of_encodeFields sendMessageRow rfl hw
        (encodeFields_cons_error (encodeField_uint_invalid .n0 hatt h0))
    · exact fails_of_encodeFields sendMessageRow rfl hw
        (encodeFields_cons_later_error (encodeField_uint_ok .n0 hatt h0)
          (encodeFields_cons_error (encodeField_uint_invalid .n1 hts h1)))
    · exact fails_of_encodeFields sendMessageRow rfl hw
        (encodeFields_cons_later_error (encodeField_uint_ok .n0 hatt h0)
          (encodeFields_cons_later_error (encodeField_uint_ok .n1 hts h1)
            (encodeFields_cons_error (encodeField_prefix6_invalid .s0 hdst h2))))
  · rcases hnone with hatt | hts | hdst | hmsg
    · exact faults_of_unwrittenNum sendMessageRow rfl .n0 (by decide) hatt
    · exact faults_of_unwrittenNum sendMessageRow rfl .n1 (by decide) hts
    · exact faults_of_unwrittenStr sendMessageRow rfl .s0 (by decide) hdst
    · exact faults_of_unwrittenStr sendMessageRow rfl .s1 (by decide) hmsg

/-- Settles O49, by the fields in frame order; the reserved byte `F0` always encodes. -/
theorem sendCommandEmitsItsFields : Obligations.SendCommandEmitsItsFields := by
  unfold Obligations.SendCommandEmitsItsFields
  refine ⟨rfl, fun s hok => ⟨fun ts dst txt hts hdst htxt => ?_, fun hnone => ?_⟩⟩
  · have hw := rowWritten_sendCommand hts hdst htxt
    refine ⟨fun h1 hmin hmax hcap => ?_, fun h1 => ?_, fun h1 h2 => ?_⟩
    · exact completes_of_text_frame sendCommandRow rfl hok
        (encodeFields_cons_ok rfl
          (encodeFields_cons_ok (encodeField_uint_ok .n0 hts h1)
            (encodeFields_cons_ok (encodeField_prefix6_ok .s0 hdst hmin hmax)
              (encodeFields_cons_ok (encodeField_text .s1 htxt) rfl))))
        (by simp [rowHead, sendCommandRow]) (by simp; omega)
    · exact fails_of_encodeFields sendCommandRow rfl hw
        (encodeFields_cons_later_error rfl (encodeFields_cons_error (encodeField_uint_invalid .n0 hts h1)))
    · exact fails_of_encodeFields sendCommandRow rfl hw
        (encodeFields_cons_later_error rfl
          (encodeFields_cons_later_error (encodeField_uint_ok .n0 hts h1)
            (encodeFields_cons_error (encodeField_prefix6_invalid .s0 hdst h2))))
  · rcases hnone with hts | hdst | htxt
    · exact faults_of_unwrittenNum sendCommandRow rfl .n0 (by decide) hts
    · exact faults_of_unwrittenStr sendCommandRow rfl .s0 (by decide) hdst
    · exact faults_of_unwrittenStr sendCommandRow rfl .s1 (by decide) htxt

/-- Settles O50, by the three fields in frame order. -/
theorem sendChannelMessageEmitsItsFields : Obligations.SendChannelMessageEmitsItsFields := by
  unfold Obligations.SendChannelMessageEmitsItsFields
  refine ⟨rfl, fun s hok => ⟨fun ch ts msg hch hts hmsg => ?_, fun hnone => ?_⟩⟩
  · have hw := rowWritten_sendChannelMessage hch hts hmsg
    refine ⟨fun h0 h1 hcap => ?_, fun h0 => ?_, fun h0 h1 => ?_⟩
    · exact completes_of_text_frame sendChannelMessageRow rfl hok
        (encodeFields_cons_ok (encodeField_uint_ok .n0 hch h0)
          (encodeFields_cons_ok (encodeField_uint_ok .n1 hts h1)
            (encodeFields_cons_ok (encodeField_text .s0 hmsg) rfl)))
        (by simp [rowHead, sendChannelMessageRow, le_one]) (by simp; omega)
    · exact fails_of_encodeFields sendChannelMessageRow rfl hw
        (encodeFields_cons_error (encodeField_uint_invalid .n0 hch h0))
    · exact fails_of_encodeFields sendChannelMessageRow rfl hw
        (encodeFields_cons_later_error (encodeField_uint_ok .n0 hch h0)
          (encodeFields_cons_error (encodeField_uint_invalid .n1 hts h1)))
  · rcases hnone with hch | hts | hmsg
    · exact faults_of_unwrittenNum sendChannelMessageRow rfl .n0 (by decide) hch
    · exact faults_of_unwrittenNum sendChannelMessageRow rfl .n1 (by decide) hts
    · exact faults_of_unwrittenStr sendChannelMessageRow rfl .s0 (by decide) hmsg

/-- Settles O51, by the range of `PADX(S0, 32)`; after it `sendLogin` has a `TEXT` field, which cannot fail. -/
theorem destinationCommandsPadTo32Bytes : Obligations.DestinationCommandsPadTo32Bytes := by
  unfold Obligations.DestinationCommandsPadTo32Bytes
  refine ⟨rfl, rfl, rfl, rfl, fun s hok => ⟨fun dst hdst hmax => ⟨fun pw hpw hcap => ?_, ?_, ?_, ?_⟩,
    fun dst hdst hlong => ?_, fun hnone => ?_, fun hnone => ?_⟩⟩
  · exact completes_of_text_frame sendLoginRow rfl hok
      (encodeFields_cons_ok (encodeField_padX_ok .s0 hdst hmax)
        (encodeFields_cons_ok (encodeField_text .s1 hpw) rfl))
      (by simp [rowHead, sendLoginRow, padTo]) (by simp; omega)
  · exact completes_of_only_destination sendLogoutRow rfl hok rfl hdst hmax
  · exact completes_of_only_destination sendStatusRequestRow rfl hok rfl hdst hmax
  · exact completes_of_only_destination pathDiscoveryRow rfl hok rfl hdst hmax
  · have hfield := encodeField_padX_invalid (c := s.cfg) (num := s.num) (f := 0) .s0 hdst hlong
    refine ⟨fun hwritten => ?_, fails_of_only_field sendLogoutRow rfl rfl hfield,
      fails_of_only_field sendStatusRequestRow rfl rfl hfield, fails_of_only_field pathDiscoveryRow rfl rfl hfield⟩
    obtain ⟨pw, hpw⟩ := Option.ne_none_iff_exists'.mp hwritten
    exact fails_of_encodeFields sendLoginRow rfl (rowWritten_sendLogin hdst hpw s.num) (encodeFields_cons_error hfield)
  · rcases hnone with hdst | hpw
    · exact faults_of_unwrittenStr sendLoginRow rfl .s0 (by decide) hdst
    · exact faults_of_unwrittenStr sendLoginRow rfl .s1 (by decide) hpw
  · exact ⟨faults_of_unwrittenStr sendLogoutRow rfl .s0 (by decide) hnone,
      faults_of_unwrittenStr sendStatusRequestRow rfl .s0 (by decide) hnone,
      faults_of_unwrittenStr pathDiscoveryRow rfl .s0 (by decide) hnone⟩
end

section
namespace Sys2Proof.Machine

/-! ### The raw field and the rows of `setChannel` and `sendTrace` (R103, R139, R146) -/

section
variable {c : Config} {num : NumFile} {str : StrFile} {f : Byte} (r : SReg) {b : Bytes} (hr : readStr str r = some b)
include hr

theorem encodeField_raw_ok {width : Nat} (hb : b.length = width) : encodeField c num str (.raw r width) f = .ok b := by
  simp only [encodeField, withStr, hr, encodeRaw, hb, if_true]

theorem encodeField_raw_invalid {width : Nat} (hb : b.length ≠ width) :
    encodeField c num str (.raw r width) f = raiseInvalid f := by
  simp only [encodeField, withStr, hr, encodeRaw, hb, if_false]

end

theorem rowWritten_setChannel {num : NumFile} {str : StrFile} {ix : Word64} {name sec : Bytes} (hix : num.n0 = some ix)
    (hname : str.s0 = some name) (hsec : str.s1 = some sec) : rowWritten num str setChannelRow = true := by
  simp [rowWritten, setChannelRow, fieldWritten, fieldNum, fieldStr, readNum, readStr, hix, hname, hsec]

theorem rowWritten_sendTrace {num : NumFile} {tag auth fl : Word64} (htag : num.n0 = some tag)
    (hauth : num.n1 = some auth) (hfl : num.n2 = some fl) (str : StrFile) :
    rowWritten num str sendTraceRow = true := by
  simp [rowWritten, sendTraceRow, fieldWritten, fieldNum, fieldStr, readNum, htag, hauth, hfl]

end Sys2Proof.Machine

open Sys2Proof Sys2Proof.Machine

/-- Settles O53, by the three fields in frame order; the name `PADT(S0, 32)` cannot fail. -/
theorem setChannelEmitsItsFields : Obligations.SetChannelEmitsItsFields := by
  unfold Obligations.SetChannelEmitsItsFields
  refine ⟨rfl, fun s hok => ⟨fun ix name sec hix hname hsec => ?_, fun hnone => ?_⟩⟩
  · have hw := rowWritten_setChannel hix hname hsec
    refine ⟨fun h0 h2 => ?_, fun h0 => ?_, fun h0 h2 => ?_⟩
    · exact completes_of_short_frame setChannelRow rfl hok
        (encodeFields_cons_ok (encodeField_uint_ok .n0 hix h0)
          (encodeFields_cons_ok (encodeField_padT .s0 hname)
            (encodeFields_cons_ok (encodeField_raw_ok .s1 hsec h2) rfl)))
        (by simp [rowHead, setChannelRow, le_one, padTo]) (by simp; omega)
    · exact fails_of_encodeFields setChannelRow rfl hw
        (encodeFields_cons_error (encodeField_uint_invalid .n0 hix h0))
    · exact fails_of_encodeFields setChannelRow rfl hw
        (encodeFields_cons_later_error (encodeField_uint_ok .n0 hix h0)
          (encodeFields_cons_later_error (encodeField_padT .s0 hname)
            (encodeFields_cons_error (encodeField_raw_invalid .s1 hsec h2))))
  · rcases hnone with hix | hname | hsec
    · exact faults_of_unwrittenNum setChannelRow rfl .n0 (by decide) hix
    · exact faults_of_unwrittenStr setChannelRow rfl .s0 (by decide) hname
    · exact faults_of_unwrittenStr setChannelRow rfl .s1 (by decide) hsec

/-- Settles O54, by the ranges of the three `UINT` fields in frame order. -/
theorem sendTraceEmitsItsFields : Obligations.SendTraceEmitsItsFields := by
  unfold Obligations.SendTraceEmitsItsFields
  refine ⟨rfl, fun s hok => ⟨fun tag auth fl htag hauth hfl => ?_, fun hnone => ?_⟩⟩
  · have hw := rowWritten_sendTrace htag hauth hfl s.str
    refine ⟨fun h0 h1 h2 => ?_, fun h0 => ?_, fun h0 h1 => ?_, fun h0 h1 h2 => ?_⟩
    · exact completes_of_short_frame sendTraceRow rfl hok
        (encodeFields_cons_ok (encodeField_uint_ok .n0 htag h0)
          (encodeFields_cons_ok (encodeField_uint_ok .n1 hauth h1)
            (encodeFields_cons_ok (encodeField_uint_ok .n2 hfl h2) rfl)))
        (by simp [rowHead, sendTraceRow, le_one]) (by simp)
    · exact fails_of_encodeFields sendTraceRow rfl hw
        (encodeFields_cons_error (encodeField_uint_invalid .n0 htag h0))
    · exact fails_of_encodeFields sendTraceRow rfl hw
        (encodeFields_cons_later_error (encodeField_uint_ok .n0 htag h0)
          (encodeFields_cons_error (encodeField_uint_invalid .n1 hauth h1)))
    · exact fails_of_encodeFields sendTraceRow rfl hw
        (encodeFields_cons_later_error (encodeField_uint_ok .n0 htag h0)
          (encodeFields_cons_later_error (encodeField_uint_ok .n1 hauth h1)
            (encodeFields_cons_error (encodeField_uint_invalid .n2 hfl h2))))
  · rcases hnone with htag | hauth | hfl
    · exact faults_of_unwrittenNum sendTraceRow rfl .n0 (by decide) htag
    · exact faults_of_unwrittenNum sendTraceRow rfl .n1 (by decide) hauth
    · exact faults_of_unwrittenNum sendTraceRow rfl .n2 (by decide) hfl
end

section
namespace Sys2Proof.Machine

/-! ### How an instruction that completes with an encoding ends (R85 to R87) -/

section
variable {i : Instr} {s : State} {r : Encoded} (hexec : exec i s = complete r s)
include hexec

theorem completes_of_encoding {F : Bytes} (hok : s.cfg.Ok) (hr : r = .ok F) (hlen : F.length ≤ s.cfg.outCap) :
    Completes i s F := by
  unfold Completes
  rw [hexec, hr]
  exact complete_completedWith hok hlen

theorem fails_of_encoding {c : ErrorCode} {x : Byte} (hr : r = .error (.raise c x)) : Fails i s c.number x := by
  unfold Fails
  rw [hexec, hr]
  exact complete_failedWith c x s

end

/-! ### The components in order (R108, R147, R160) -/

section
variable {c : Config} {e : Byte} {cp : Component} {cps : List Component} {w : Word64} {ws : List Word64}

theorem encodeComponents_cons_ok {b bs : Bytes} (hcp : encodeComponent c cp w e = .ok b)
    (hrest : encodeComponents c e cps ws = .ok bs) : encodeComponents c e (cp :: cps) (w :: ws) = .ok (b ++ bs) := by
  simp only [encodeComponents, hcp, hrest]

theorem encodeComponents_cons_error {x : Stop} (hcp : encodeComponent c cp w e = .error x) :
    encodeComponents c e (cp :: cps) (w :: ws) = .error x := by
  simp only [encodeComponents, hcp]

/-- A component's error is the entry's error when the component before it encodes. -/
theorem encodeComponents_cons_later_error {b : Bytes} {x : Stop} (hcp : encodeComponent c cp w e = .ok b)
    (hrest : encodeComponents c e cps ws = .error x) : encodeComponents c e (cp :: cps) (w :: ws) = .error x := by
  simp only [encodeComponents, hcp, hrest]

/-- The components of an entry encode, or raise `VALUE_OUT_OF_RANGE(e)`: they have no other error. -/
theorem encodeComponents_result (c : Config) (e : Byte) (cps : List Component) (ws : List Word64) :
    (∃ bs, encodeComponents c e cps ws = .ok bs) ∨
      encodeComponents c e cps ws = .error (.raise .valueOutOfRange e) := by
  induction cps generalizing ws with
  | nil => exact .inl ⟨[], rfl⟩
  | cons cp cps ih =>
    cases ws with
    | nil => exact .inl ⟨[], rfl⟩
    | cons w ws =>
      rcases encodeComponent_result c cp w e with ⟨b, hb⟩ | herr
      · rcases ih ws with ⟨bs, hbs⟩ | herr
        · exact .inl ⟨_, encodeComponents_cons_ok hb hbs⟩
        · exact .inr (encodeComponents_cons_later_error hb herr)
      · exact .inr (encodeComponents_cons_error herr)

/-- One component outside its range, wherever it stands, makes the whole entry raise: a component before it that fails
raises the same error. -/
theorem encodeComponents_outside {p : Component × Word64} (hp : p ∈ cps.zip ws)
    (hout : OutsideRange c p.2 p.1.scale p.1.conv p.1.lo p.1.hi) :
    encodeComponents c e cps ws = .error (.raise .valueOutOfRange e) := by
  induction cps generalizing ws with
  | nil => simp at hp
  | cons cp cps ih =>
    cases ws with
    | nil => simp at hp
    | cons w ws =>
      rcases List.mem_cons.mp hp with rfl | hrest
      · exact encodeComponents_cons_error (encodeComponent_outside hout)
      · rcases encodeComponent_result c cp w e with ⟨b, hb⟩ | herr
        · exact encodeComponents_cons_later_error hb (ih hrest)
        · exact encodeComponents_cons_error herr

end

/-! ### How `LPP.ENTRY k` of a sensor row ends (R147, R155) -/

section
variable {s : State} {k : Byte} {en : Entry} {row : SensorRow} (hk : k.toNat < s.cfg.lppSlots)
  (hen : readEntry s.ent k.toNat = some en) (hrow : sensorRegistry[en.sk.toNat]? = some row)
include hk hen hrow

theorem lppEntry_completes {bs : Bytes} (hok : s.cfg.Ok)
    (hbs : encodeComponents s.cfg k row.comps (entryWords en) = .ok bs) :
    Completes (.lppEntry k) s ([en.ch, row.type] ++ bs) := by
  have hbytes : entryBytes s.cfg en k = .ok ([en.ch, row.type] ++ bs) := by
    simp [entryBytes, hrow, encodeSensor, hbs]
  have hlen := entryBytes_length hbytes
  have hroom := (outCap_room hok).1
  exact completes_of_encoding (exec_lppEntry_written hk hen) hok hbytes (by omega)

theorem lppEntry_fails {p : Component × Word64} (hp : p ∈ row.comps.zip (entryWords en))
    (hout : OutsideRange s.cfg p.2 p.1.scale p.1.conv p.1.lo p.1.hi) : Fails (.lppEntry k) s 3 k := by
  have hbytes : entryBytes s.cfg en k = .error (.raise .valueOutOfRange k) := by
    simp [entryBytes, hrow, encodeSensor, encodeComponents_outside hp hout]
  exact fails_of_encoding (exec_lppEntry_written hk hen) hbytes

/-- The entry request of a sensor row of one component. -/
theorem lppEntry_one_component {cp : Component} (hok : s.cfg.Ok) (hcomps : row.comps = [cp]) :
    (∀ q, InsideRange s.cfg en.c0 cp.scale cp.conv cp.lo cp.hi q →
      Completes (.lppEntry k) s ([en.ch, row.type] ++ be q cp.n)) ∧
    (OutsideRange s.cfg en.c0 cp.scale cp.conv cp.lo cp.hi → Fails (.lppEntry k) s 3 k) := by
  refine ⟨fun q hq => ?_, fun hout => ?_⟩
  · have hbs : encodeComponents s.cfg k row.comps (entryWords en) = .ok (be q cp.n ++ []) := by
      rw [hcomps]
      exact encodeComponents_cons_ok (encodeComponent_inside hq) rfl
    simpa using lppEntry_completes hk hen hrow hok hbs
  · exact lppEntry_fails hk hen hrow (p := (cp, en.c0)) (by simp [hcomps, entryWords]) hout

/-- The entry request of a sensor row of three components. -/
theorem lppEntry_three_components {cp0 cp1 cp2 : Component} (hok : s.cfg.Ok) (hcomps : row.comps = [cp0, cp1, cp2]) :
    (∀ q0 q1 q2, InsideRange s.cfg en.c0 cp0.scale cp0.conv cp0.lo cp0.hi q0 →
      InsideRange s.cfg en.c1 cp1.scale cp1.conv cp1.lo cp1.hi q1 →
      InsideRange s.cfg en.c2 cp2.scale cp2.conv cp2.lo cp2.hi q2 →
      Completes (.lppEntry k) s ([en.ch, row.type] ++ be q0 cp0.n ++ be q1 cp1.n ++ be q2 cp2.n)) ∧
    (OutsideRange s.cfg en.c0 cp0.scale cp0.conv cp0.lo cp0.hi ∨
      OutsideRange s.cfg en.c1 cp1.scale cp1.conv cp1.lo cp1.hi ∨
      OutsideRange s.cfg en.c2 cp2.scale cp2.conv cp2.lo cp2.hi → Fails (.lppEntry k) s 3 k) := by
  refine ⟨fun q0 q1 q2 h0 h1 h2 => ?_, fun hout => ?_⟩
  · have hbs : encodeComponents s.cfg k row.comps (entryWords en) =
        .ok (be q0 cp0.n ++ (be q1 cp1.n ++ (be q2 cp2.n ++ []))) := by
      rw [hcomps]
      exact encodeComponents_cons_ok (encodeComponent_inside h0)
        (encodeComponents_cons_ok (encodeComponent_inside h1)
          (encodeComponents_cons_ok (encodeComponent_inside h2) rfl))
    simpa using lppEntry_completes hk hen hrow hok hbs
  · rcases hout with h0 | h1 | h2
    · exact lppEntry_fails hk hen hrow (p := (cp0, en.c0)) (by simp [hcomps, entryWords]) h0
    · exact lppEntry_fails hk hen hrow (p := (cp1, en.c1)) (by simp [hcomps, entryWords]) h1
    · exact lppEntry_fails hk hen hrow (p := (cp2, en.c2)) (by simp [hcomps, entryWords]) h2

end

end Sys2Proof.Machine

open Sys2Proof Sys2Proof.Machine

/-- Settles O55: each sensor kind selects its registry row, whose one component has the row's scale, width and range. -/
theorem oneComponentEntriesEncode : Obligations.OneComponentEntriesEncode := by
  unfold Obligations.OneComponentEntriesEncode
  intro s k en hok hk hen
  refine ⟨fun hsk => ?_, fun hsk => ?_, fun hsk => ?_, fun hsk => ?_⟩
  · exact lppEntry_one_component hk hen (row := tempRow) (cp := bes 2 10 .trunc) (by rw [hsk]; rfl) hok rfl
  · exact lppEntry_one_component hk hen (row := humRow) (cp := beu 1 2 .trunc) (by rw [hsk]; rfl) hok rfl
  · exact lppEntry_one_component hk hen (row := analogRow) (cp := bes 2 100 .trunc) (by rw [hsk]; rfl) hok rfl
  · exact lppEntry_one_component hk hen (row := baroRow) (cp := beu 2 10 .rnd) (by rw [hsk]; rfl) hok rfl

/-- Settles O56: each sensor kind selects its registry row, whose three components share the entry's one error. -/
theorem threeComponentEntriesEncode : Obligations.ThreeComponentEntriesEncode := by
  unfold Obligations.ThreeComponentEntriesEncode
  intro s k en hok hk hen
  refine ⟨fun hsk => ?_, fun hsk => ?_⟩
  · exact lppEntry_three_components hk hen (row := gpsRow)
      (cp0 := bes 3 10000 .trunc) (cp1 := bes 3 10000 .trunc) (cp2 := bes 3 100 .trunc)
      (by rw [hsk]; rfl) hok rfl
  · exact lppEntry_three_components hk hen (row := accelRow)
      (cp0 := bes 2 1000 .trunc) (cp1 := bes 2 1000 .trunc) (cp2 := bes 2 1000 .trunc)
      (by rw [hsk]; rfl) hok rfl
end

section
namespace Sys2Proof.Machine

/-! ### The entries of a frame in index order (R156, R160) -/

/-- An entry fails with its own index, whatever fails in it (R147). -/
theorem entryBytes_raise_index {c : Config} {en : Entry} {e x : Byte} {code : ErrorCode}
    (h : entryBytes c en e = .error (.raise code x)) : x = e := by
  unfold entryBytes at h
  split at h
  · cases h
    rfl
  · rename_i row _
    unfold encodeSensor at h
    rcases encodeComponents_result c e row.comps (entryWords en) with ⟨bs, hbs⟩ | herr
    · rw [hbs] at h
      cases h
    · rw [herr] at h
      cases h
      rfl

section
variable {c : Config} {ent : EntryFile}

theorem encodeEntry_written {k : Byte} {en : Entry} (h : readEntry ent k.toNat = some en) :
    encodeEntry c ent k = entryBytes c en k := by
  simp only [encodeEntry, h]

theorem encodeEntries_cons_ok {i n : Nat} {b bs : Bytes} (hentry : encodeEntry c ent (BitVec.ofNat 8 i) = .ok b)
    (hrest : encodeEntries c ent (i + 1) n = .ok bs) : encodeEntries c ent i (n + 1) = .ok (b ++ bs) := by
  simp only [encodeEntries, hentry, hrest]

theorem encodeEntries_cons_error {i n : Nat} {x : Stop} (hentry : encodeEntry c ent (BitVec.ofNat 8 i) = .error x) :
    encodeEntries c ent i (n + 1) = .error x := by
  simp only [encodeEntries, hentry]

theorem encodeEntries_cons_later_error {i n : Nat} {b : Bytes} {x : Stop}
    (hentry : encodeEntry c ent (BitVec.ofNat 8 i) = .ok b) (hrest : encodeEntries c ent (i + 1) n = .error x) :
    encodeEntries c ent i (n + 1) = .error x := by
  simp only [encodeEntries, hentry, hrest]

/-- Entries that all encode are concatenated in index order. -/
theorem encodeEntries_ok {Fs : List Bytes} {i : Nat}
    (h : ∀ j F, Fs[j]? = some F → encodeEntry c ent (BitVec.ofNat 8 (i + j)) = .ok F) :
    encodeEntries c ent i Fs.length = .ok Fs.flatten := by
  induction Fs generalizing i with
  | nil => rfl
  | cons F Fs ih =>
    refine encodeEntries_cons_ok (h 0 F rfl) (ih fun j G hG => ?_)
    rw [Nat.add_right_comm]
    exact h (j + 1) G hG

/-- The error of the first entry that fails is the error of all. -/
theorem encodeEntries_first_error {n j i : Nat} {x : Stop} (hj : j < n)
    (hbefore : ∀ l, l < j → ∃ F, encodeEntry c ent (BitVec.ofNat 8 (i + l)) = .ok F)
    (herr : encodeEntry c ent (BitVec.ofNat 8 (i + j)) = .error x) : encodeEntries c ent i n = .error x := by
  induction n generalizing i j with
  | zero => omega
  | succ n ih =>
    cases j with
    | zero => exact encodeEntries_cons_error herr
    | succ j =>
      obtain ⟨F, hF⟩ := hbefore 0 (Nat.succ_pos j)
      refine encodeEntries_cons_later_error hF (ih (Nat.lt_of_succ_lt_succ hj) (fun l hl => ?_) ?_)
      · rw [Nat.add_right_comm]
        exact hbefore (l + 1) (Nat.succ_lt_succ hl)
      · rw [Nat.add_right_comm]
        exact herr

theorem entriesWritten_iff {n : Nat} : entriesWritten ent n = true ↔ ∀ i, i < n → readEntry ent i ≠ none := by
  simp [entriesWritten, Option.isSome_iff_ne_none]

theorem encodeFrame_written {n : Byte} (h : ∀ i, i < n.toNat → readEntry ent i ≠ none) :
    encodeFrame c ent n = encodeEntries c ent 0 n.toNat := if_pos (entriesWritten_iff.mpr h)

theorem encodeFrame_unwritten {n : Byte} {i : Nat} (hi : i < n.toNat) (h : readEntry ent i = none) :
    encodeFrame c ent n = .error .unwritten := if_neg fun hw => entriesWritten_iff.mp hw i hi h

end

/-! ### A frame of a list of entries (R156) -/

section
variable {c : Config} {ent : EntryFile} {n : Byte} {ens : List Entry} (hcount : ens.length = n.toNat)
  (hens : ∀ i, i < n.toNat → readEntry ent i = ens[i]?)
include hcount hens

theorem encodeFrame_of_entries : encodeFrame c ent n = encodeEntries c ent 0 n.toNat :=
  encodeFrame_written fun i hi => by simp [hens i hi, hcount, hi]

theorem encodeEntry_of_entries {i : Nat} {en : Entry} (hen : ens[i]? = some en) :
    encodeEntry c ent (BitVec.ofNat 8 i) = entryBytes c en (BitVec.ofNat 8 i) := by
  obtain ⟨hi, -⟩ := List.getElem?_eq_some_iff.mp hen
  have hbyte : (BitVec.ofNat 8 i).toNat = i := Nat.mod_eq_of_lt (by omega)
  exact encodeEntry_written (by rw [hbyte, hens i (by omega), hen])

theorem encodeFrame_ok {Fs : List Bytes} (hFs : Fs.length = n.toNat)
    (hbytes : ∀ i en F, ens[i]? = some en → Fs[i]? = some F → entryBytes c en (BitVec.ofNat 8 i) = .ok F) :
    encodeFrame c ent n = .ok Fs.flatten := by
  rw [encodeFrame_of_entries hcount hens, ← hFs]
  refine encodeEntries_ok fun i F hF => ?_
  obtain ⟨hi, -⟩ := List.getElem?_eq_some_iff.mp hF
  have hen : ens[i]? = some ens[i] := List.getElem?_eq_getElem (by omega)
  rw [Nat.zero_add, encodeEntry_of_entries hcount hens hen]
  exact hbytes i _ F hen hF

theorem encodeFrame_first_error {j : Nat} {en : Entry} {x : Stop} (hen : ens[j]? = some en)
    (herr : entryBytes c en (BitVec.ofNat 8 j) = .error x)
    (hbefore : ∀ i en', i < j → ens[i]? = some en' → ∃ F, entryBytes c en' (BitVec.ofNat 8 i) = .ok F) :
    encodeFrame c ent n = .error x := by
  obtain ⟨hj, -⟩ := List.getElem?_eq_some_iff.mp hen
  rw [encodeFrame_of_entries hcount hens]
  refine encodeEntries_first_error (hcount ▸ hj) (fun i hi => ?_) ?_
  · have heni : ens[i]? = some ens[i] := List.getElem?_eq_getElem (by omega)
    rw [Nat.zero_add, encodeEntry_of_entries hcount hens heni]
    exact hbefore i _ hi heni
  · rw [Nat.zero_add, encodeEntry_of_entries hcount hens hen, herr]

end

/-! ### How `LPP.FRAME n` ends (R60, R156) -/

section
variable {s : State} {n : Byte} (hn : n.toNat ≤ s.cfg.lppSlots)
include hn

theorem exec_lppFrame_of_le : exec (.lppFrame n) s = complete (encodeFrame s.cfg s.ent n) s :=
  if_neg (Nat.not_lt.mpr hn)

theorem lppFrame_completes {F : Bytes} (hok : s.cfg.Ok) (hF : encodeFrame s.cfg s.ent n = .ok F) :
    Completes (.lppFrame n) s F := by
  have hlen := encodeFrame_length hF
  have hroom := (outCap_room hok).2.2
  exact completes_of_encoding (exec_lppFrame_of_le hn) hok hF (by omega)

end

end Sys2Proof.Machine

open Sys2Proof Sys2Proof.Machine

/-- Settles O60: the written check passes for the given entries, which are encoded in index order. -/
theorem frameConcatenatesEntriesInOrder : Obligations.FrameConcatenatesEntriesInOrder := by
  unfold Obligations.FrameConcatenatesEntriesInOrder
  intro s n hok hn
  have hrun := exec_lppFrame_of_le hn
  refine ⟨fun ens hcount hens => ⟨fun Fs hFs hbytes => ?_, fun j en c x hen herr hbefore => ?_⟩,
    fun ⟨i, hi, hnone⟩ => ?_, fun hzero => ?_⟩
  · exact lppFrame_completes hn hok (encodeFrame_ok hcount hens hFs hbytes)
  · exact ⟨entryBytes_raise_index herr,
      fails_of_encoding hrun (encodeFrame_first_error hcount hens hen herr hbefore)⟩
  · exact hrun.trans (complete_eq_unwritten_iff.mpr (encodeFrame_unwritten hi hnone))
  · subst hzero
    exact lppFrame_completes hn hok rfl
end

section
namespace Sys2Proof.Machine

/-! ### Why a step stops (R164) -/

/-- A completion whose frame, if there is one, fits `OUT` stops in no other fault than `UnwrittenArgument` (R85). -/
theorem complete_next_or_unwritten {r : Encoded} {s : State} (hfits : ∀ F, r = .ok F → F.length ≤ s.cfg.outCap) :
    (∃ t, complete r s = .next t) ∨ complete r s = .fault .unwrittenArgument := by
  match r with
  | .ok F => exact .inl ⟨_, complete_ok (hfits F rfl)⟩
  | .error (.raise c i) => exact .inl ⟨_, complete_raise c i s⟩
  | .error .unwritten => exact .inr (complete_unwritten s)

/-- With the sizes of R6 to R8 and strings within `STR_CAP` (R22), the engine performs a request with a frame that fits. -/
theorem performRequest_next_or_unwritten {s : State} (hok : s.cfg.Ok)
    (hstr : ∀ r b, readStr s.str r = some b → b.length ≤ s.cfg.strCap) :
    (∃ t, performRequest s = .next t) ∨ performRequest s = .fault .unwrittenArgument := by
  rw [performRequest_eq_complete]
  exact complete_next_or_unwritten fun F => everyFrameFitsTheOutputBuffer s (requestWord s) F hok hstr

/-- Of the events only the engine's step in a busy LFS can stop (R91, R164). -/
theorem react_next_or_unwritten {s : State} (hok : s.cfg.Ok)
    (hstr : ∀ r b, readStr s.str r = some b → b.length ≤ s.cfg.strCap) (ev : Event) :
    (∃ t, react ev s = .next t) ∨ react ev s = .fault .unwrittenArgument := by
  cases ev with
  | host x => exact .inl ⟨_, rfl⟩
  | reset => exact .inl ⟨_, rfl⟩
  | engine =>
    cases hb : s.status.busy with
    | true => rw [react_engine_busy hb]; exact performRequest_next_or_unwritten hok hstr
    | false => exact .inl ⟨s, react_engine_idle hb⟩

end Sys2Proof.Machine

open Sys2Proof Sys2Proof.Machine

/-- Settles O9: a step is one event, and under the sizes and string lengths of the invariant every frame fits. -/
theorem onlyUnwrittenArgumentStopsTheMachine : Obligations.OnlyUnwrittenArgumentStopsTheMachine := by
  unfold Obligations.OnlyUnwrittenArgumentStopsTheMachine
  intro s hinv
  obtain ⟨ev, rest, hstep⟩ := step_eq_react s
  rw [hstep]
  exact react_next_or_unwritten (s := { s with events := rest }) hinv.cfgOk hinv.strFits ev
end

section
namespace Sys2Proof.Machine

/-! ### The invariant in its parts (R6 to R8, R22, R23, R26, R28, R35) -/

/-- The entry file is in canonical form and lists registers that exist (R23). -/
structure EntriesExist (s : State) : Prop where
  canonical : keysRise none s.ent = true
  exist : ∀ p ∈ s.ent, p.1 < s.cfg.lppSlots

/-- `OUT` is in canonical form, lists addresses that exist, and holds every byte below `OUT_LEN` (R28, R35, R86). -/
structure FrameKnown (s : State) : Prop where
  canonical : Memory.wf s.out = true
  exist : ∀ p ∈ s.out, p.1 < s.cfg.outCap
  known : ∀ a, a < s.outLen.toNat → (Memory.read s.out a).isSome = true

theorem State.inv_iff {s : State} :
    s.Inv ↔ s.cfg.Ok ∧ StringsFit s ∧ EntriesExist s ∧ FrameKnown s ∧ s.StatusInv := by
  constructor
  · intro h
    exact ⟨h.cfgOk, h.strFits, ⟨h.entCanonical, h.entExists⟩, ⟨h.outCanonical, h.outExists, h.outKnown⟩, h.statusInv⟩
  · rintro ⟨hcfg, hstr, ⟨hentCanonical, hentExists⟩, ⟨houtCanonical, houtExists, houtKnown⟩, hstatus⟩
    exact ⟨hcfg, hstr, hentCanonical, hentExists, houtCanonical, houtExists, houtKnown, hstatus⟩

/-- The invariant does not speak of the events to come. -/
theorem State.Inv.withEvents {s : State} (h : s.Inv) (es : List Event) : { s with events := es }.Inv := by
  obtain ⟨hcfg, hstr, hent, hframe, hstatus⟩ := State.inv_iff.mp h
  exact State.inv_iff.mpr ⟨hcfg, hstr, ⟨hent.canonical, hent.exist⟩, ⟨hframe.canonical, hframe.exist, hframe.known⟩,
    hstatus.of_same_results rfl rfl rfl⟩

/-! ### The entry file (R23, R76, R79) -/

theorem EntriesExist.of_same_entries {s t : State} (h : EntriesExist s) (hcfg : t.cfg = s.cfg) (hent : t.ent = s.ent) :
    EntriesExist t := by
  constructor
  · rw [hent]; exact h.canonical
  · rw [hent, hcfg]; exact h.exist

theorem EntriesExist.of_writeEntry {s : State} (h : EntriesExist s) {k : Nat} (hk : k < s.cfg.lppSlots) (en : Entry) :
    EntriesExist { s with ent := writeEntry s.ent k en } where
  canonical := keysRise_writeEntry s.ent k en h.canonical
  exist p hp := by
    rcases mem_storeKey hp with rfl | hold
    · exact hk
    · exact h.exist p hold

/-- An index from `LPP_SLOTS` on is dropped, so every transaction keeps the entry file to the registers that exist. -/
theorem EntriesExist.of_transact {s : State} (h : EntriesExist s) (x : Transaction) : EntriesExist (transact x s) := by
  cases hd : dropped x s with
  | true => rw [transact_dropped hd]; exact h.of_same_entries rfl rfl
  | false =>
    rw [transact_accepted hd]
    cases x with
    | writeEntry k ew c0 c1 c2 =>
      have hk : k.toNat < s.cfg.lppSlots := by
        simp only [dropped, Bool.or_eq_false_iff, decide_eq_false_iff_not] at hd
        omega
      exact h.of_writeEntry hk (entryOf ew c0 c1 c2)
    | writeNum i v => exact h.of_same_entries (acceptWriteNum_cfg i v s) (acceptWriteNum_ent i v s)
    | writeStr j b => exact h.of_same_entries (acceptWriteStr_cfg j b s) (acceptWriteStr_ent j b s)
    | start | readStatus | readOutLen | readOut | clear => exact h.of_same_entries rfl rfl

/-! ### The bytes of the last frame (R28, R35, R86) -/

/-- Giving up bytes at the end of the frame, or all of them, keeps the rest known. -/
theorem FrameKnown.of_outLen_le {s t : State} (h : FrameKnown s) (hcfg : t.cfg = s.cfg) (hout : t.out = s.out)
    (hlen : t.outLen.toNat ≤ s.outLen.toNat) : FrameKnown t := by
  constructor
  · rw [hout]; exact h.canonical
  · rw [hout, hcfg]; exact h.exist
  · rw [hout]; exact fun a ha => h.known a (Nat.lt_of_lt_of_le ha hlen)

theorem outLen_transact_le (x : Transaction) (s : State) : (transact x s).outLen.toNat ≤ s.outLen.toNat := by
  rcases transact_start_or_keeps_results x s with ⟨w, hstart⟩ | ⟨-, hlen, -⟩
  · rw [hstart]; exact Nat.zero_le _
  · rw [hlen]

theorem FrameKnown.of_transact {s : State} (h : FrameKnown s) (x : Transaction) : FrameKnown (transact x s) :=
  h.of_outLen_le (transact_cfg x s) (transact_out x s) (outLen_transact_le x s)

/-- A success writes the whole frame within `OUT`, and `OUT_LEN` is no longer than the frame (R86). -/
theorem FrameKnown.of_succeed {s : State} (h : FrameKnown s) {F : Bytes} (hF : F.length ≤ s.cfg.outCap) :
    FrameKnown (succeed F s) where
  canonical := Memory.wf_write s.out 0 F h.canonical
  exist p hp := by
    rcases Memory.mem_write hp with hold | ⟨-, hlt⟩
    · exact h.exist p hold
    · simp only [succeed_cfg]; omega
  known a ha := by
    have hle : (succeed F s).outLen.toNat ≤ F.length := by
      rw [succeed_outLen, BitVec.toNat_ofNat]
      exact Nat.mod_le _ _
    have hlt : a < F.length := Nat.lt_of_lt_of_le ha hle
    simp [Memory.read_write, hlt]

theorem FrameKnown.of_engineResult {s t : State} (h : FrameKnown s) (ht : EngineResult s t) : FrameKnown t := by
  rcases ht with ⟨F, hF, rfl⟩ | ⟨c, i, rfl⟩
  · exact h.of_succeed hF
  · exact h.of_outLen_le rfl rfl (Nat.le_refl _)

/-! ### Every event keeps the invariant (R44) -/

theorem resetEvent_inv {s : State} (hok : s.cfg.Ok) : (resetEvent s).Inv := by
  have hstr : StringsFit (resetEvent s) := by
    intro r b hr
    rw [readStr_resetEvent] at hr
    cases hr
  have hent : EntriesExist (resetEvent s) := ⟨rfl, by simp⟩
  have hframe : FrameKnown (resetEvent s) := ⟨rfl, by simp, by simp⟩
  exact State.inv_iff.mpr ⟨hok, hstr, hent, hframe, resetEvent_statusInv s⟩

/-- The reset state of a configuration is what a reset event makes of it. -/
theorem resetWith_inv {c : Config} (hok : c.Ok) : (State.resetWith c).Inv :=
  resetEvent_inv (s := State.resetWith c) hok

theorem State.Inv.of_transact {s : State} (h : s.Inv) (x : Transaction) : (transact x s).Inv := by
  obtain ⟨hok, hstr, hent, hframe, hstatus⟩ := State.inv_iff.mp h
  have hok' : (transact x s).cfg.Ok := by rw [transact_cfg]; exact hok
  exact State.inv_iff.mpr ⟨hok', hstr.transact x, hent.of_transact x, hframe.of_transact x, hstatus.of_transact x⟩

/-- A completion leaves the argument registers and writes a frame that fits, or none (R86, R87, R90). -/
theorem State.Inv.of_engineResult {s t : State} (h : s.Inv) (hb : s.status.busy = true) (ht : EngineResult s t) :
    t.Inv := by
  obtain ⟨hok, hstr, hent, hframe, hstatus⟩ := State.inv_iff.mp h
  obtain ⟨-, hstrKept, hentKept, -, hcfg, -⟩ := ht.keeps
  have hok' : t.cfg.Ok := by rw [hcfg]; exact hok
  have hstr' : StringsFit t := by unfold StringsFit; rw [hstrKept, hcfg]; exact hstr
  exact State.inv_iff.mpr ⟨hok', hstr', hent.of_same_entries hcfg hentKept, hframe.of_engineResult ht,
    hstatus.of_engineResult hb ht⟩

theorem State.Inv.of_react {s t : State} (h : s.Inv) (ev : Event) (ht : react ev s = .next t) : t.Inv := by
  cases ev with
  | host x => cases ht; exact h.of_transact x
  | reset => cases ht; exact resetEvent_inv h.cfgOk
  | engine =>
    cases hb : s.status.busy with
    | true => rw [react_engine_busy hb] at ht; exact h.of_engineResult hb (performRequest_result ht)
    | false => rw [react_engine_idle hb] at ht; cases ht; exact h

end Sys2Proof.Machine

open Sys2Proof Sys2Proof.Machine

/-- Settles O3: a step is one event, and each event keeps every part of the invariant. -/
theorem everyStepKeepsTheInvariant : Obligations.EveryStepKeepsTheInvariant := by
  unfold Obligations.EveryStepKeepsTheInvariant
  intro s t hs ht
  obtain ⟨ev, rest, hstep⟩ := step_eq_react s
  exact (hs.withEvents rest).of_react ev (hstep.symm.trans ht)

/-- Settles O2: the sizes of the spec's vectors meet R6 to R8, and the rest holds at reset whatever the sizes. -/
theorem resetMeetsTheInvariant : Obligations.ResetMeetsTheInvariant := by
  unfold Obligations.ResetMeetsTheInvariant
  exact ⟨resetWith_inv (c := Config.vectors) (by decide), fun c => resetWith_inv⟩
end

section
namespace Sys2Proof.Machine

/-! ### The running operation and the host's transactions (R76, R179, R183) -/

/-- Whatever the host issues while an operation runs, what `perform` reads and `BUSY` stay (R179). -/
theorem transactAll_busy (xs : List Transaction) {s : State} (hb : s.status.busy = true) :
    (transactAll xs s).status.busy = true ∧ (transactAll xs s).cfg = s.cfg ∧ (transactAll xs s).req = s.req ∧
      (transactAll xs s).num = s.num ∧ (transactAll xs s).str = s.str ∧ (transactAll xs s).ent = s.ent := by
  induction xs generalizing s with
  | nil => exact ⟨hb, rfl, rfl, rfl, rfl, rfl⟩
  | cons x xs ih =>
    obtain ⟨hnum, hstr, hent, hreq, hcfg, hbusy, -, -⟩ := transact_busy x hb
    obtain ⟨hbusy', hcfg', hreq', hnum', hstr', hent'⟩ := ih hbusy
    exact ⟨hbusy', hcfg'.trans hcfg, hreq'.trans hreq, hnum'.trans hnum, hstr'.trans hstr, hent'.trans hent⟩

/-- `DROP` passes through a completion: setting it before gives what setting it after gives (R86, R87). -/
theorem complete_dropTransaction {r : Encoded} {s t : State} (h : complete r s = .next t) :
    complete r (dropTransaction s) = .next (dropTransaction t) := by
  rcases complete_next h with ⟨F, rfl, hF, rfl⟩ | ⟨c, i, rfl, rfl⟩
  · exact complete_ok hF
  · exact complete_raise c i _

/-- A transaction dropped while the operation runs leaves its completion the same but for `DROP` (R179, R183). -/
theorem react_engine_dropTransaction {s t : State} (hb : s.status.busy = true) (ht : react .engine s = .next t) :
    react .engine (dropTransaction s) = .next (dropTransaction t) := by
  have hb' : (dropTransaction s).status.busy = true := hb
  rw [react_engine_busy hb, performRequest_eq_complete] at ht
  rw [react_engine_busy hb', performRequest_eq_complete]
  exact complete_dropTransaction ht

/-- An idle LFS drops no well-formed transaction (R76). -/
theorem transact_of_idle {x : Transaction} {s : State} (hb : s.status.busy = false) (hwf : x.wellFormed s.cfg = true) :
    transact x s = accept x s := by
  refine transact_accepted (Bool.eq_false_iff.mpr fun hd => ?_)
  rcases dropped_iff.mp hd with ⟨hbusy, -⟩ | hnot
  · simp [hb] at hbusy
  · exact hnot hwf

end Sys2Proof.Machine

open Sys2Proof Sys2Proof.Machine

/-- Settles O25: the four are in the drop table while busy, and no transaction then reaches what the operation reads. -/
theorem runningOperationKeepsItsArguments : Obligations.RunningOperationKeepsItsArguments := by
  unfold Obligations.RunningOperationKeepsItsArguments
  intro s ts hb
  refine ⟨fun i v j b k ew c0 c1 c2 w t ht => transact_write_of_busy hb ?_, ?_⟩
  · simp only [List.mem_cons, List.not_mem_nil, or_false] at ht
    rcases ht with rfl | rfl | rfl | rfl
    · exact .inl (.inl ⟨i, v, rfl⟩)
    · exact .inl (.inr (.inl ⟨j, b, rfl⟩))
    · exact .inl (.inr (.inr ⟨k, ew, c0, c1, c2, rfl⟩))
    · exact .inr ⟨w, rfl⟩
  · obtain ⟨hbusy, hcfg, hreq, hnum, hstr, hent⟩ := transactAll_busy ts hb
    exact ⟨hbusy, congrArg perform hcfg, hreq, hnum, hstr, hent⟩

/-- Settles O26: the completion leaves an idle LFS, which accepts the write; the busy one drops it, and only `DROP` tells. -/
theorem writeRacingTheCompletionHasTwoOutcomes : Obligations.WriteRacingTheCompletionHasTwoOutcomes := by
  unfold Obligations.WriteRacingTheCompletionHasTwoOutcomes
  intro s t x hb ht hwf hx
  have hresult : EngineResult s t := performRequest_result ((react_engine_busy hb).symm.trans ht)
  obtain ⟨-, -, -, -, hcfg, hdrop⟩ := hresult.keeps
  obtain ⟨-, -, hidle, -⟩ := hresult.completed
  have hwf' : x.wellFormed t.cfg = true := by rw [hcfg]; exact hwf
  obtain ⟨hstatus, -⟩ := transact_argumentWrite hx hwf' hidle
  refine ⟨transact_of_idle hidle hwf', by rw [hstatus, hdrop], ?_⟩
  rw [transact_write_of_busy hb (.inl hx)]
  exact react_engine_dropTransaction hb ht
end
